-- ==== Sys2Proof/Word.lean ====
section
/-! DEFINITION. The word types of the core (00_scope.md R5, R8): every value is unsigned. -/

namespace Sys2Proof

/-- A memory byte, a general register, a timer (10_state.md R21, R27, R28; 20_memory.md R60). -/
abbrev Byte := BitVec 8

/-- PC, I, a stack entry, an opcode (10_state.md R23, R24, R25; 30_encoding.md R90). -/
abbrev Word := BitVec 16

/-- The operand NNN (30_encoding.md R92): a 12-bit address. -/
abbrev Addr := BitVec 12

/-- A register index X or Y, naming one of V0 to VF (30_encoding.md R92). -/
abbrev RegIndex := Fin 16

/-- The opcode whose high byte is `hi` and whose low byte is `lo`: `(hi << 8) | lo`. -/
def joinBytes (hi lo : Byte) : Word := hi ++ lo

end Sys2Proof
end

