-- ==== Sys2Proof/Config.lean ====
section
/-! DEFINITION. What an implementation fixes (the parameters of 00_scope.md R6) and the values the
spec leaves free in every step (00_scope.md R12). The chosen values of the parameters stand in
Machine/Params.lean. -/

namespace Sys2Proof

/-- Parameter `DRAW_EDGE` (44_display.md R200): where a sprite pixel outside the grid goes. -/
inductive DrawEdge where
  /-- Dropped; no coordinate wraps. -/
  | clip
  /-- The sprite's origin wraps into the grid, its pixels do not. -/
  | wrapOriginClip
  /-- Every pixel wraps. -/
  | wrap
deriving DecidableEq, Repr

/-- Parameter `SHIFT_SOURCE` (42_alu.md R170, R172): the register a shift reads. -/
inductive ShiftSource where
  | vx
  | vy
deriving DecidableEq, Repr

/-- The parameters the source leaves open (00_scope.md R6). -/
structure Config where
  /-- `DRAW_EDGE`. -/
  drawEdge : DrawEdge
  /-- `SHIFT_SOURCE`. -/
  shiftSource : ShiftSource
  /-- `FX1E_SETS_VF` (43_index_memory.md R181). -/
  fx1eSetsVf : Bool
  /-- `I_MASK_12` (10_state.md R23). -/
  iMask12 : Bool
  /-- `FONT`, 80 bytes (20_memory.md R63). -/
  font : List Byte
deriving DecidableEq, Repr

/-- Free value: how many timer ticks the host performs before the step numbered `n`. "A model admits
any number of ticks between any two steps" (10_state.md R38). Log 12. -/
opaque Config.freeTicks : Nat → Nat

/-- Free value: the key states the host presents with the step numbered `n`; externally mutated
(10_state.md R30). Log 12. -/
opaque Config.freeKeys : Nat → Vector Bool 16

/-- Free value: the random byte of the step numbered `n`, "a free input of the step (any value)"
(10_state.md R37). Log 12. -/
opaque Config.freeRnd : Nat → Byte

end Sys2Proof
end

