-- ==== Sys2Proof/Machine/State.lean ====
section
/-! DEFINITION. The state of the core (10_state.md R20), the inputs and the output of a step that
`exec` must see, the reasons a step can stop, and the state after reset (R41). Plain data only. -/

namespace Sys2Proof.Machine

/-- Memory as the cells that differ from their reset contents, in the one canonical form that
Machine/Memory.lean defines (20_memory.md R60). -/
abbrev Memory := List Host.Cell

/-- The display: 32 rows of 64 one-bit cells, row 0 first (10_state.md R29). -/
abbrev Display := Vector (Vector Bool 64) 32

/-- What the host does between two steps and presents with the later one (10_state.md R36 to R38). -/
structure HostTurn where
  /-- Timer ticks performed before the step (R38). -/
  ticks : Nat
  /-- The key snapshot of the step (R30, R36). -/
  keys : Vector Bool 16
  /-- The random byte of the step (R37). -/
  rnd : Byte
deriving DecidableEq, Repr

/-- The outcome the last step returned, of those that leave a next state (60_exceptions.md R300). -/
inductive Report where
  /-- No step has been taken since reset. DESIGN CHOICE, log 11. -/
  | noStep
  /-- `Ok`. -/
  | ok
  /-- `DecodeMiss`, with the opcode (40_cycle.md R125). -/
  | decodeMiss (op : Word)
  /-- `AwaitingKey` (45_keypad_timers.md R224). -/
  | awaitingKey
deriving DecidableEq, Repr

/-- The error outcomes of 60_exceptions.md R300. An error leaves the core's state as it was at the start
of the step (40_cycle.md R126) and is terminal (R129), so it carries no state. -/
inductive Fault where
  /-- A fetch, or a data access of `DXYN`, `FX33`, `FX55` or `FX65`, would touch an address above 0xFFF;
  `addr` is the lowest such address (20_memory.md R64). Raised by the fetch and by those four.
  Safe: the spec names this outcome (log 8). -/
  | outOfBounds (addr : Nat)
  /-- `2NNN` with SP = 16 (41_flow.md R143). Raised by `call`. Safe: the spec names this outcome. -/
  | stackOverflow
  /-- `00EE` with SP = 0 (41_flow.md R141). Raised by `ret`. Safe: the spec names this outcome. -/
  | stackUnderflow
  /-- A ROM of more than 3584 bytes (70_reset_and_hazards.md R342). Raised by `load`, never by a step.
  Safe: the spec names this outcome. -/
  | loadTooLarge (length : Nat)
deriving DecidableEq, Repr

/-- Why the model gives an instruction no meaning. -/
inductive Refusal where
  /-- The instruction has no meaning yet. Raised by no arm of `exec`. Safe: the model stops. -/
  | notModelled (mnemonic : String)
deriving DecidableEq, Repr

/-- The core's state (10_state.md R20), then the inputs and output of a step. -/
structure State where
  /-- V[0..15] (R21, R22). -/
  v : Vector Byte 16
  /-- I (R23). -/
  i : Word
  /-- PC (R24). -/
  pc : Word
  /-- S[0..15] (R25). -/
  stack : Vector Word 16
  /-- SP, the number of stack entries in use, 0..16 (R26). -/
  sp : Fin 17
  /-- DT (R27). -/
  dt : Byte
  /-- ST (R28). -/
  st : Byte
  /-- M[0x000..0xFFF] (R33). -/
  mem : Memory
  /-- D[0..63, 0..31] (R29). -/
  display : Display
  /-- Input of the step being executed: K[0..15] (R30, R36). Not core state. -/
  keys : Vector Bool 16
  /-- Input of the step being executed: `rnd` (R37). Not core state. -/
  rnd : Byte
  /-- Output of the last step (60_exceptions.md R300). Not core state. -/
  report : Report
  /-- Host turns already settled, oldest first; when there is none the turn is free (log 12). -/
  schedule : List HostTurn
  /-- The model's own count of steps begun, to which the free values are applied (log 12). -/
  turn : Nat
deriving DecidableEq, Repr

/-- The state after reset (10_state.md R41, 70_reset_and_hazards.md R340) with a ROM of length 0 (R341):
everything zero, PC at 0x200, memory at its reset contents. The last five fields are not core state:
DESIGN CHOICE, logs 11, 12 and 13. -/
def State.reset : State where
  v := Vector.replicate 16 0
  i := 0
  pc := 0x200
  stack := Vector.replicate 16 0
  sp := 0
  dt := 0
  st := 0
  mem := []
  display := Vector.replicate 32 (Vector.replicate 64 false)
  keys := Vector.replicate 16 false
  rnd := 0
  report := .noStep
  schedule := []
  turn := 0

end Sys2Proof.Machine
end

