-- ==== Sys2Proof/Machine/Display.lean ====
section
/-! DEFINITION. The display buffer (10_state.md R29) and the sprite XOR-blit (44_display.md R200, R201, R203). -/

namespace Sys2Proof.Machine

/-- A cell of the grid: column 0..63 and row 0..31 (10_state.md R29). -/
structure Cell where
  x : Fin 64
  y : Fin 32
deriving DecidableEq, Repr

/-- `D[x, y]`. -/
def Display.get (d : Display) (p : Cell) : Bool := d[p.y][p.x]

/-- `D[x, y] <- b`. -/
def Display.set (d : Display) (p : Cell) (b : Bool) : Display :=
  Vector.set d p.y (Vector.set d[p.y] p.x b)

/-- Every cell false (44_display.md R202). -/
def Display.clear : Display := Vector.replicate 32 (Vector.replicate 64 false)

/-- The cells in row-major order, cell `(x, y)` at index `y * 64 + x` (10_state.md R29). -/
def Display.rowMajor (d : Display) : List Bool := d.toList.flatMap Vector.toList

/-- The cell at column `x` and row `y`, if it lies in the grid. -/
def cellAt (x y : Nat) : Option Cell :=
  if h : x < 64 ∧ y < 32 then some ⟨⟨x, h.1⟩, ⟨y, h.2⟩⟩ else none

/-- `place(x0, y0, c, r)`: where sprite column `c` and row `r` goes, or none if it is not drawn
(44_display.md R200). -/
def place (edge : DrawEdge) (x0 y0 c r : Nat) : Option Cell :=
  match edge with
  | .clip => cellAt (x0 + c) (y0 + r)
  | .wrapOriginClip => cellAt (x0 % 64 + c) (y0 % 32 + r)
  | .wrap => cellAt ((x0 + c) % 64) ((y0 + r) % 32)

/-- The sprite pixel of column `c` in a row's byte: bit `7 - c`, so bit 7 is leftmost (44_display.md
R201, D12, log 17). -/
def spriteBit (row : Byte) (c : Nat) : Bool := row.getLsbD (7 - c)

/-- The display and the collision bit while a sprite is drawn (44_display.md R203). -/
structure Canvas where
  display : Display
  collide : Bool
deriving DecidableEq, Repr

/-- XOR a set sprite pixel onto a cell; erasing a set cell is a collision (44_display.md R203). -/
def Canvas.flip (k : Canvas) (p : Cell) : Canvas where
  display := k.display.set p (!k.display.get p)
  collide := k.collide || k.display.get p

/-- One pixel: nothing happens for a sprite bit of 0 or a pixel that is not placed (44_display.md R203,
D37, log 18). -/
def drawPixel (edge : DrawEdge) (x0 y0 r : Nat) (row : Byte) (k : Canvas) (c : Nat) : Canvas :=
  if spriteBit row c then
    match place edge x0 y0 c r with
    | some p => k.flip p
    | none => k
  else k

/-- One row: columns 0 to 7 in order. -/
def drawRow (edge : DrawEdge) (x0 y0 r : Nat) (row : Byte) (k : Canvas) : Canvas :=
  (List.range 8).foldl (drawPixel edge x0 y0 r row) k

/-- The rows of a sprite from row `r` on, in order (44_display.md R203). -/
def drawRows (edge : DrawEdge) (x0 y0 r : Nat) (rows : List Byte) (k : Canvas) : Canvas :=
  match rows with
  | [] => k
  | row :: rest => drawRows edge x0 y0 (r + 1) rest (drawRow edge x0 y0 r row k)

/-- Draw a whole sprite with its origin at `(x0, y0)`, no collision so far (44_display.md R203). -/
def drawSprite (edge : DrawEdge) (x0 y0 : Nat) (rows : List Byte) (d : Display) : Canvas :=
  drawRows edge x0 y0 0 rows { display := d, collide := false }

end Sys2Proof.Machine
end

