-- ==== Sys2Proof/Machine/Flags.lean ====
section
/-! DEFINITION. The values an instruction writes into VF as a flag (10_state.md R22). -/

namespace Sys2Proof.Machine

/-- VF is 1 or 0. -/
def flagByte (b : Bool) : Byte := if b then 1 else 0

/-- Carry: 1 iff the exact sum exceeds 255 (42_alu.md R160, R168). -/
def carryFlag (a b : Byte) : Byte := flagByte (decide (255 < a.toNat + b.toNat))

/-- Not-borrow of `a - b`: 1 iff `a >= b` (42_alu.md R160, R169, R171). -/
def notBorrowFlag (a b : Byte) : Byte := flagByte (decide (b.toNat ≤ a.toNat))

/-- The bit a right shift by one shifts out: the old least significant bit (42_alu.md R170). -/
def lsbFlag (src : Byte) : Byte := flagByte (src.getLsbD 0)

/-- The bit a left shift by one shifts out: the old most significant bit (42_alu.md R172). -/
def msbFlag (src : Byte) : Byte := flagByte (src.getLsbD 7)

/-- The collision bit of a sprite draw (44_display.md R203). -/
def collisionFlag (collide : Bool) : Byte := flagByte collide

/-- 1 iff the exact sum of `FX1E` exceeds 0xFFF; written only under `FX1E_SETS_VF` (43_index_memory.md
R181). -/
def indexOverflowFlag (sum : Nat) : Byte := flagByte (decide (0xFFF < sum))

end Sys2Proof.Machine
end

