-- ==== Sys2Proof/Machine/Params.lean ====
section
/-! DEFINITION. The values this model takes for the parameters of 00_scope.md R6: the spec's chosen ones
(92_eei_decisions.md D9, D11, D15, D16, D19). A meaning that reads a parameter is written over any
`Config` and applied to `params` here. -/

namespace Sys2Proof.Machine

/-- The glyphs of the hex digits 0 to F in ascending order, five rows each, top row first
(20_memory.md R62, R63). PRESUMED, the widely published font (K1, K2), log 5. -/
def fontGlyphs : List (List Byte) :=
  [[0xF0, 0x90, 0x90, 0x90, 0xF0],
   [0x20, 0x60, 0x20, 0x20, 0x70],
   [0xF0, 0x10, 0xF0, 0x80, 0xF0],
   [0xF0, 0x10, 0xF0, 0x10, 0xF0],
   [0x90, 0x90, 0xF0, 0x10, 0x10],
   [0xF0, 0x80, 0xF0, 0x10, 0xF0],
   [0xF0, 0x80, 0xF0, 0x90, 0xF0],
   [0xF0, 0x10, 0x20, 0x40, 0x40],
   [0xF0, 0x90, 0xF0, 0x90, 0xF0],
   [0xF0, 0x90, 0xF0, 0x10, 0xF0],
   [0xF0, 0x90, 0xF0, 0x90, 0x90],
   [0xE0, 0x90, 0xE0, 0x90, 0xE0],
   [0xF0, 0x80, 0x80, 0x80, 0xF0],
   [0xE0, 0x90, 0x90, 0x90, 0xE0],
   [0xF0, 0x80, 0xF0, 0x80, 0xF0],
   [0xF0, 0x80, 0xF0, 0x80, 0x80]]

/-- The chosen parameter values (00_scope.md R6). DESIGN CHOICE of the spec, logs 1 to 5. -/
def params : Config where
  drawEdge := .clip
  shiftSource := .vx
  fx1eSetsVf := false
  iMask12 := true
  font := fontGlyphs.flatten

end Sys2Proof.Machine
end

