-- ==== Sys2Proof/Machine/Memory.lean ====
section
/-! DEFINITION. Memory (20_memory.md): the reset contents, the byte primitives of R64, the canonical form,
and the bounds check every access makes before its first write. -/

namespace Sys2Proof.Machine

/-- Memory has 4096 bytes, addresses 0x000 to 0xFFF (R60). -/
abbrev memorySize : Nat := 4096

/-- What an address that no cell lists reads as: its contents after reset with a ROM of length 0, the
font at 0x000-0x04F and 0 above (R61, R63; 10_state.md R41). -/
def resetByte (a : Nat) : Byte := params.font.getD a 0

/-- `MemRead(a, 1)` for `a` within memory (R64). -/
def Memory.read (m : Memory) (a : Nat) : Byte :=
  match m with
  | [] => resetByte a
  | (a', b) :: rest => if a = a' then b else Memory.read rest a

/-- The cells that say `a` holds `b`: none when that is its reset content. -/
def cellsFor (a : Nat) (b : Byte) : Memory :=
  if b = resetByte a then [] else [(a, b)]

/-- Put `b` at `a`, keeping the cells in rising order and dropping a cell that says nothing. -/
def Memory.insert (m : Memory) (a : Nat) (b : Byte) : Memory :=
  match m with
  | [] => cellsFor a b
  | (a', b') :: rest =>
    if a < a' then cellsFor a b ++ (a', b') :: rest
    else if a = a' then cellsFor a b ++ rest
    else (a', b') :: Memory.insert rest a b

/-- `MemWrite(a, 1, b)`: for an address above 0xFFF "the access does not happen" (R64). Every address of
memory is writable (R68). -/
def Memory.write (m : Memory) (a : Nat) (b : Byte) : Memory :=
  if a < memorySize then m.insert a b else m

/-- Write bytes at ascending addresses from `a` (R66). -/
def Memory.store (m : Memory) (a : Nat) (bytes : List Byte) : Memory :=
  match bytes with
  | [] => m
  | b :: rest => Memory.store (m.write a b) (a + 1) rest

/-- Read `n` bytes at ascending addresses from `a` (R66). -/
def Memory.load (m : Memory) (a n : Nat) : List Byte :=
  match n with
  | 0 => []
  | k + 1 => m.read a :: Memory.load m (a + 1) k

/-- The cells lie at addresses of memory from `low` on, strictly rising, and each says something that the
reset contents do not. -/
def Memory.wfFrom (low : Nat) (m : Memory) : Bool :=
  match m with
  | [] => true
  | (a, b) :: rest =>
    decide (low ≤ a) && decide (a < memorySize) && decide (b ≠ resetByte a) && Memory.wfFrom (a + 1) rest

/-- The canonical form: equal memories are equal lists. -/
def Memory.wf (m : Memory) : Bool := m.wfFrom 0

/-- Whether the `len` bytes from `base` all lie in memory (R64); no byte is touched when `len` is 0. -/
def inBounds (base len : Nat) : Bool := len == 0 || decide (base + len ≤ memorySize)

/-- The lowest address out of range among ascending addresses from `base` that leave memory (R64, D4,
log 9). -/
def firstOutOfBounds (base : Nat) : Nat := max base memorySize

/-- The opcode at `a`: the byte at the lower address is the high byte (R65, D1, log 6). -/
def Memory.opcodeAt (m : Memory) (a : Nat) : Word := joinBytes (m.read a) (m.read (a + 1))

end Sys2Proof.Machine
end

