-- ==== Sys2Proof/Machine/Operands.lean ====
section
/-! DEFINITION. How instructions turn operand fields and register contents into the values they use. -/

namespace Sys2Proof.Machine

/-- VX + VY or VX + NN, modulo 256 (42_alu.md R160). -/
def sumByte (a b : Byte) : Byte := BitVec.ofNat 8 (a.toNat + b.toNat)

/-- `(a - b) mod 256` (42_alu.md R160). -/
def differenceByte (a b : Byte) : Byte := BitVec.ofInt 8 ((a.toNat : Int) - (b.toNat : Int))

/-- The register a shift reads, by parameter `SHIFT_SOURCE` (42_alu.md R170, R172, D9, log 2). -/
def shiftOperand (source : ShiftSource) (vx vy : Byte) : Byte :=
  match source with
  | .vx => vx
  | .vy => vy

/-- A logical right shift by one place (42_alu.md R170). -/
def shiftRightOne (src : Byte) : Byte := BitVec.ofNat 8 (src.toNat / 2)

/-- A left shift by one place, modulo 256 (42_alu.md R172). -/
def shiftLeftOne (src : Byte) : Byte := BitVec.ofNat 8 (src.toNat * 2)

/-- The target of a jump or call: `zext_16(NNN)` (30_encoding.md R92). -/
def targetOf (nnn : Addr) : Word := nnn.zeroExtend 16

/-- The target of `BNNN`: the unmasked 16-bit sum of NNN and V0 (41_flow.md R148, D3, log 7). -/
def offsetTarget (nnn : Addr) (v0 : Byte) : Word := BitVec.ofNat 16 (nnn.toNat + v0.toNat)

/-- What a write of `n` to I stores: its low 12 bits under `I_MASK_12`, its low 16 bits otherwise
(10_state.md R23, D16, log 4). -/
def indexValue (cfg : Config) (n : Nat) : Word :=
  BitVec.ofNat 16 (if cfg.iMask12 then n % 4096 else n)

/-- The low nibble of a register, as a key index (45_keypad_timers.md R220, D18, log 19) or a hex digit
(43_index_memory.md R182). -/
def lowNibble (b : Byte) : Fin 16 := Fin.ofNat 16 b.toNat

/-- The address of the glyph of a hex digit (43_index_memory.md R182, 20_memory.md R62). -/
def glyphAddress (digit : Fin 16) : Nat := 5 * digit.val

/-- The three decimal digits of a byte, hundreds first (43_index_memory.md R183). -/
def decimalDigits (b : Byte) : List Byte :=
  [BitVec.ofNat 8 (b.toNat / 100), BitVec.ofNat 8 (b.toNat / 10 % 10), BitVec.ofNat 8 (b.toNat % 10)]

/-- The lowest-indexed pressed key, if any: `any_pressed()` (10_state.md R36, D17, log 20). -/
def anyPressed (keys : Vector Bool 16) : Option (Fin 16) := (List.finRange 16).find? (fun k => keys[k])

/-- `is_key_pressed(k)` (10_state.md R36). -/
def isKeyPressed (keys : Vector Bool 16) (k : Fin 16) : Bool := keys[k]

/-- A key index as the byte `FX0A` puts in VX (45_keypad_timers.md R224). -/
def keyByte (k : Fin 16) : Byte := BitVec.ofNat 8 k.val

/-- One host tick of a timer: a nonzero timer goes down by 1 (10_state.md R38, PRESUMED K5, log 14). -/
def tickTimer (t : Byte) : Byte := if 0 < t.toNat then BitVec.ofNat 8 (t.toNat - 1) else t

/-- `n` host ticks of a timer. -/
def tickTimes (n : Nat) (t : Byte) : Byte :=
  match n with
  | 0 => t
  | k + 1 => tickTimes k (tickTimer t)

end Sys2Proof.Machine
end

