-- ==== Sys2Proof/Machine/Ops.lean ====
section
/-! DEFINITION. The operations over registers, stack and memory that the meanings share, and the ways a
step ends. -/

namespace Sys2Proof.Machine

/-- The result of a step or of an instruction. -/
abbrev Result := Host.Outcome State Fault Refusal

/-! ### Registers -/

/-- VF, register 15 (10_state.md R22). -/
abbrev vf : RegIndex := 15

/-- `V[x]` (10_state.md R21). -/
def State.reg (s : State) (x : RegIndex) : Byte := s.v[x]

/-- `V[x] <- b`. -/
def State.setReg (s : State) (x : RegIndex) (b : Byte) : State := { s with v := s.v.set x b }

/-- `V[x] <- b`, then `V[15] <- flag`: the flag is written last (42_alu.md R161, D10, log 16). -/
def State.setRegThenFlag (s : State) (x : RegIndex) (b flag : Byte) : State :=
  (s.setReg x b).setReg vf flag

/-- `I <- n`, through the mask (10_state.md R23). -/
def State.setIndex (s : State) (cfg : Config) (n : Nat) : State := { s with i := indexValue cfg n }

/-- `PC <- target`. -/
def State.setPc (s : State) (target : Word) : State := { s with pc := target }

/-- `DT <- b` (10_state.md R27). -/
def State.setDt (s : State) (b : Byte) : State := { s with dt := b }

/-- `ST <- b` (10_state.md R28). -/
def State.setSt (s : State) (b : Byte) : State := { s with st := b }

/-- `D <- d`. -/
def State.setDisplay (s : State) (d : Display) : State := { s with display := d }

/-- The outcome the step returns to the host (60_exceptions.md R300). -/
def State.setReport (s : State) (r : Report) : State := { s with report := r }

/-! ### Call stack -/

/-- Push: write `S[SP]`, then increment SP; none when SP = 16 (10_state.md R26). -/
def State.push (s : State) (w : Word) : Option State :=
  if h : s.sp.val < 16 then
    some { s with stack := s.stack.set s.sp.val w h, sp := ⟨s.sp.val + 1, by omega⟩ }
  else none

/-- Pop: decrement SP, then read `S[SP]`, which keeps its value; none when SP = 0 (10_state.md R25,
R26). -/
def State.pop (s : State) : Option (Word × State) :=
  if h : s.sp.val = 0 then none
  else some (s.stack[s.sp.val - 1]'(by omega), { s with sp := ⟨s.sp.val - 1, by omega⟩ })

/-! ### Memory -/

/-- `M[a]`. -/
def State.byte (s : State) (a : Nat) : Byte := s.mem.read a

/-- Write bytes at ascending addresses from `a`. -/
def State.storeBytes (s : State) (a : Nat) (bytes : List Byte) : State :=
  { s with mem := s.mem.store a bytes }

/-- V0 to V`x` inclusive, in order (43_index_memory.md R184). -/
def State.regsUpTo (s : State) (x : RegIndex) : List Byte := s.v.toList.take (x.val + 1)

/-- V0 to V`x` inclusive loaded from ascending addresses from `a`; the others keep their value
(43_index_memory.md R185). -/
def State.loadRegsUpTo (s : State) (x : RegIndex) (a : Nat) : State :=
  { s with v := Vector.ofFn fun k : Fin 16 => if k ≤ x then s.byte (a + k.val) else s.v[k] }

/-! ### The ways a step ends -/

/-- The instruction completed: outcome `Ok` (60_exceptions.md R300). -/
def complete (s : State) : Result := .next (s.setReport .ok)

/-- The ONE way an error is raised (60_exceptions.md R305): there is no trap mechanism, the core saves
nothing and goes to no vector; control returns to the host with the outcome, and the step has no effect
(40_cycle.md R126), so no state is given. There is no return from it inside the core (R306). -/
def raiseError (f : Fault) : Result := .fault f

/-- Complete with `s` if the `len` bytes from `base` lie in memory, else raise OutOfBounds: every
address is checked before the first write (20_memory.md R64). -/
def completeInBounds (base len : Nat) (s : State) : Result :=
  if inBounds base len then complete s else raiseError (.outOfBounds (firstOutOfBounds base))

/-- A skip: `PC <- PC + 2` when the condition holds, and nothing else (41_flow.md R140). -/
def skipIf (c : Bool) (s : State) : Result := complete (s.setPc (if c then s.pc + 2 else s.pc))

/-- Completion of an ALU instruction that writes VX only. -/
def completeReg (s : State) (x : RegIndex) (b : Byte) : Result := complete (s.setReg x b)

/-- Completion of an ALU instruction that writes VX and then VF. -/
def completeRegFlag (s : State) (x : RegIndex) (b flag : Byte) : Result :=
  complete (s.setRegThenFlag x b flag)

end Sys2Proof.Machine
end

