-- ==== Sys2Proof/Machine/Alu.lean ====
section
/-! DEFINITION. Register loads and the carry/borrow ALU (42_alu.md). Every source is read before anything
is written; then VX, then VF (R161). -/

namespace Sys2Proof.Machine

/-- `6XNN` LD Vx, byte (R162). -/
def execLdImm (x : RegIndex) (nn : Byte) (s : State) : Result := completeReg s x nn

/-- `7XNN` ADD Vx, byte (R163): no carry flag. -/
def execAddImm (x : RegIndex) (nn : Byte) (s : State) : Result := completeReg s x (sumByte (s.reg x) nn)

/-- `8XY0` LD Vx, Vy (R164). -/
def execLdReg (x y : RegIndex) (s : State) : Result := completeReg s x (s.reg y)

/-- `8XY1` OR Vx, Vy (R165): VF unchanged (D8, log 16). -/
def execOrReg (x y : RegIndex) (s : State) : Result := completeReg s x (s.reg x ||| s.reg y)

/-- `8XY2` AND Vx, Vy (R166): VF unchanged (D8, log 16). -/
def execAndReg (x y : RegIndex) (s : State) : Result := completeReg s x (s.reg x &&& s.reg y)

/-- `8XY3` XOR Vx, Vy (R167): VF unchanged (D8, log 16). -/
def execXorReg (x y : RegIndex) (s : State) : Result := completeReg s x (s.reg x ^^^ s.reg y)

/-- `8XY4` ADD Vx, Vy (R168). -/
def execAddReg (x y : RegIndex) (s : State) : Result :=
  completeRegFlag s x (sumByte (s.reg x) (s.reg y)) (carryFlag (s.reg x) (s.reg y))

/-- `8XY5` SUB Vx, Vy (R169). -/
def execSubReg (x y : RegIndex) (s : State) : Result :=
  completeRegFlag s x (differenceByte (s.reg x) (s.reg y)) (notBorrowFlag (s.reg x) (s.reg y))

/-- `8XY7` SUBN Vx, Vy (R171). -/
def execSubnReg (x y : RegIndex) (s : State) : Result :=
  completeRegFlag s x (differenceByte (s.reg y) (s.reg x)) (notBorrowFlag (s.reg y) (s.reg x))

/-- `8XY6` SHR under any parameters (R170). -/
def shrWith (cfg : Config) (x y : RegIndex) (s : State) : Result :=
  completeRegFlag s x (shiftRightOne (shiftOperand cfg.shiftSource (s.reg x) (s.reg y)))
    (lsbFlag (shiftOperand cfg.shiftSource (s.reg x) (s.reg y)))

/-- `8XY6` SHR Vx, Vy (R170). -/
def execShr (x y : RegIndex) (s : State) : Result := shrWith params x y s

/-- `8XYE` SHL under any parameters (R172). -/
def shlWith (cfg : Config) (x y : RegIndex) (s : State) : Result :=
  completeRegFlag s x (shiftLeftOne (shiftOperand cfg.shiftSource (s.reg x) (s.reg y)))
    (msbFlag (shiftOperand cfg.shiftSource (s.reg x) (s.reg y)))

/-- `8XYE` SHL Vx, Vy (R172). -/
def execShl (x y : RegIndex) (s : State) : Result := shlWith params x y s

/-- `CXNN` RND Vx, byte (R173): the step's random byte, any value (D21, log 15). -/
def execRnd (x : RegIndex) (nn : Byte) (s : State) : Result := completeReg s x (s.rnd &&& nn)

end Sys2Proof.Machine
end

