-- ==== Sys2Proof/Machine/Draw.lean ====
section
/-! DEFINITION. Display clear and sprite draw (44_display.md). -/

namespace Sys2Proof.Machine

/-- `00E0` CLS (R202): VF unchanged (D8, log 16). -/
def execCls (s : State) : Result := complete (s.setDisplay Display.clear)

/-- The display and collision bit `DXYN` leaves: VX and VY are read before VF is written, every row is
read from `M[I + r]`, also rows that are then clipped (R203). -/
def drawnCanvas (cfg : Config) (x y : RegIndex) (n : Nat) (s : State) : Canvas :=
  drawSprite cfg.drawEdge (s.reg x).toNat (s.reg y).toNat (s.mem.load s.i.toNat n) s.display

/-- `DXYN` DRW Vx, Vy, nibble under any parameters (R203). -/
def drwWith (cfg : Config) (x y : RegIndex) (n : Nat) (s : State) : Result :=
  completeInBounds s.i.toNat n
    ((s.setDisplay (drawnCanvas cfg x y n s).display).setReg vf
      (collisionFlag (drawnCanvas cfg x y n s).collide))

/-- `DXYN` DRW Vx, Vy, nibble (R203). -/
def execDrw (x y : RegIndex) (n : Nat) (s : State) : Result := drwWith params x y n s

end Sys2Proof.Machine
end

