-- ==== Sys2Proof/Machine/Flow.lean ====
section
/-! DEFINITION. Control transfer and skips (41_flow.md). On entry PC is the value after the advance of
40_cycle.md R122, the address of the instruction plus 2. -/

namespace Sys2Proof.Machine

/-- `00EE` RET (R141). -/
def execRet (s : State) : Result :=
  match s.pop with
  | some (target, t) => complete (t.setPc target)
  | none => raiseError .stackUnderflow

/-- `1NNN` JP addr (R142). -/
def execJp (nnn : Addr) (s : State) : Result := complete (s.setPc (targetOf nnn))

/-- `2NNN` CALL addr (R143). -/
def execCall (nnn : Addr) (s : State) : Result :=
  match s.push s.pc with
  | some t => complete (t.setPc (targetOf nnn))
  | none => raiseError .stackOverflow

/-- `3XNN` SE Vx, byte (R144). -/
def execSeImm (x : RegIndex) (nn : Byte) (s : State) : Result := skipIf (s.reg x == nn) s

/-- `4XNN` SNE Vx, byte (R145). -/
def execSneImm (x : RegIndex) (nn : Byte) (s : State) : Result := skipIf (s.reg x != nn) s

/-- `5XY0` SE Vx, Vy (R146). -/
def execSeReg (x y : RegIndex) (s : State) : Result := skipIf (s.reg x == s.reg y) s

/-- `9XY0` SNE Vx, Vy (R147). -/
def execSneReg (x y : RegIndex) (s : State) : Result := skipIf (s.reg x != s.reg y) s

/-- `BNNN` JP V0, addr (R148): V0 always, n2 is part of NNN. -/
def execJpV0 (nnn : Addr) (s : State) : Result := complete (s.setPc (offsetTarget nnn (s.reg 0)))

end Sys2Proof.Machine
end

