-- ==== Sys2Proof/Machine/Index.lean ====
section
/-! DEFINITION. Index register, BCD converter and register block transfer (43_index_memory.md). -/

namespace Sys2Proof.Machine

/-- `ANNN` LD I, addr (R180). -/
def execLdI (nnn : Addr) (s : State) : Result := complete (s.setIndex params nnn.toNat)

/-- `FX1E` ADD I, Vx under any parameters (R181). -/
def addIWith (cfg : Config) (x : RegIndex) (s : State) : Result :=
  if cfg.fx1eSetsVf then
    complete ((s.setIndex cfg (s.i.toNat + (s.reg x).toNat)).setReg vf
      (indexOverflowFlag (s.i.toNat + (s.reg x).toNat)))
  else complete (s.setIndex cfg (s.i.toNat + (s.reg x).toNat))

/-- `FX1E` ADD I, Vx (R181). -/
def execAddI (x : RegIndex) (s : State) : Result := addIWith params x s

/-- `FX29` LD F, Vx (R182). -/
def execLdF (x : RegIndex) (s : State) : Result :=
  complete (s.setIndex params (glyphAddress (lowNibble (s.reg x))))

/-- `FX33` LD B, Vx (R183). -/
def execLdB (x : RegIndex) (s : State) : Result :=
  completeInBounds s.i.toNat 3 (s.storeBytes s.i.toNat (decimalDigits (s.reg x)))

/-- `FX55` LD [I], Vx under any parameters (R184). -/
def stRegsWith (cfg : Config) (x : RegIndex) (s : State) : Result :=
  completeInBounds s.i.toNat (x.val + 1)
    ((s.storeBytes s.i.toNat (s.regsUpTo x)).setIndex cfg (s.i.toNat + x.val + 1))

/-- `FX55` LD [I], Vx (R184). -/
def execStRegs (x : RegIndex) (s : State) : Result := stRegsWith params x s

/-- `FX65` LD Vx, [I] under any parameters (R185). -/
def ldRegsWith (cfg : Config) (x : RegIndex) (s : State) : Result :=
  completeInBounds s.i.toNat (x.val + 1)
    ((s.loadRegsUpTo x s.i.toNat).setIndex cfg (s.i.toNat + x.val + 1))

/-- `FX65` LD Vx, [I] (R185). -/
def execLdRegs (x : RegIndex) (s : State) : Result := ldRegsWith params x s

end Sys2Proof.Machine
end

