-- ==== Sys2Proof/Machine/KeypadTimers.lean ====
section
/-! DEFINITION. Keypad tests, wait for key and timer access (45_keypad_timers.md). -/

namespace Sys2Proof.Machine

/-- `EX9E` SKP Vx (R221). -/
def execSkp (x : RegIndex) (s : State) : Result :=
  skipIf (isKeyPressed s.keys (lowNibble (s.reg x))) s

/-- `EXA1` SKNP Vx (R222). -/
def execSknp (x : RegIndex) (s : State) : Result :=
  skipIf (!isKeyPressed s.keys (lowNibble (s.reg x))) s

/-- `FX07` LD Vx, DT (R223). -/
def execLdVxDt (x : RegIndex) (s : State) : Result := completeReg s x s.dt

/-- What `FX0A` leaves: with a key pressed, its index in VX and `Ok`; with none, PC back at this
instruction and `AwaitingKey` (R224, D17, log 20). -/
def awaitKey (x : RegIndex) (s : State) : State :=
  match anyPressed s.keys with
  | some k => (s.setReg x (keyByte k)).setReport .ok
  | none => (s.setPc (s.pc - 2)).setReport .awaitingKey

/-- `FX0A` LD Vx, K (R224). -/
def execLdVxK (x : RegIndex) (s : State) : Result := .next (awaitKey x s)

/-- `FX15` LD DT, Vx (R225). -/
def execLdDtVx (x : RegIndex) (s : State) : Result := complete (s.setDt (s.reg x))

/-- `FX18` LD ST, Vx (R226). -/
def execLdStVx (x : RegIndex) (s : State) : Result := complete (s.setSt (s.reg x))

end Sys2Proof.Machine
end

