-- ==== Sys2Proof/Syntax.lean ====
section
/-! DEFINITION. The instructions: one constructor for each of the 34 forms of 30_encoding.md R93
(opcode_table.json). Each docstring names the pattern and the rule of its meaning. -/

namespace Sys2Proof

/-- An instruction form with its operands (30_encoding.md R92, R93). -/
inductive Instr where
  /-- `00E0` CLS, R202. -/
  | cls
  /-- `00EE` RET, R141. -/
  | ret
  /-- `1NNN` JP addr, R142. -/
  | jp (nnn : Addr)
  /-- `2NNN` CALL addr, R143. -/
  | call (nnn : Addr)
  /-- `3XNN` SE Vx, byte, R144. -/
  | seImm (x : RegIndex) (nn : Byte)
  /-- `4XNN` SNE Vx, byte, R145. -/
  | sneImm (x : RegIndex) (nn : Byte)
  /-- `5XY0` SE Vx, Vy, R146. -/
  | seReg (x y : RegIndex)
  /-- `6XNN` LD Vx, byte, R162. -/
  | ldImm (x : RegIndex) (nn : Byte)
  /-- `7XNN` ADD Vx, byte, R163. -/
  | addImm (x : RegIndex) (nn : Byte)
  /-- `8XY0` LD Vx, Vy, R164. -/
  | ldReg (x y : RegIndex)
  /-- `8XY1` OR Vx, Vy, R165. -/
  | orReg (x y : RegIndex)
  /-- `8XY2` AND Vx, Vy, R166. -/
  | andReg (x y : RegIndex)
  /-- `8XY3` XOR Vx, Vy, R167. -/
  | xorReg (x y : RegIndex)
  /-- `8XY4` ADD Vx, Vy, R168. -/
  | addReg (x y : RegIndex)
  /-- `8XY5` SUB Vx, Vy, R169. -/
  | subReg (x y : RegIndex)
  /-- `8XY6` SHR Vx, Vy, R170. -/
  | shr (x y : RegIndex)
  /-- `8XY7` SUBN Vx, Vy, R171. -/
  | subnReg (x y : RegIndex)
  /-- `8XYE` SHL Vx, Vy, R172. -/
  | shl (x y : RegIndex)
  /-- `9XY0` SNE Vx, Vy, R147. -/
  | sneReg (x y : RegIndex)
  /-- `ANNN` LD I, addr, R180. -/
  | ldI (nnn : Addr)
  /-- `BNNN` JP V0, addr, R148. -/
  | jpV0 (nnn : Addr)
  /-- `CXNN` RND Vx, byte, R173. -/
  | rnd (x : RegIndex) (nn : Byte)
  /-- `DXYN` DRW Vx, Vy, nibble, R203; `n` is the number of sprite rows, at most 15 (R5, R92). -/
  | drw (x y : RegIndex) (n : Nat)
  /-- `EX9E` SKP Vx, R221. -/
  | skp (x : RegIndex)
  /-- `EXA1` SKNP Vx, R222. -/
  | sknp (x : RegIndex)
  /-- `FX07` LD Vx, DT, R223. -/
  | ldVxDt (x : RegIndex)
  /-- `FX0A` LD Vx, K, R224. -/
  | ldVxK (x : RegIndex)
  /-- `FX15` LD DT, Vx, R225. -/
  | ldDtVx (x : RegIndex)
  /-- `FX18` LD ST, Vx, R226. -/
  | ldStVx (x : RegIndex)
  /-- `FX1E` ADD I, Vx, R181. -/
  | addI (x : RegIndex)
  /-- `FX29` LD F, Vx, R182. -/
  | ldF (x : RegIndex)
  /-- `FX33` LD B, Vx, R183. -/
  | ldB (x : RegIndex)
  /-- `FX55` LD [I], Vx, R184. -/
  | stRegs (x : RegIndex)
  /-- `FX65` LD Vx, [I], R185. -/
  | ldRegs (x : RegIndex)
deriving DecidableEq, Repr

end Sys2Proof
end

