-- ==== Sys2Proof/Decode.lean ====
section
/-! DEFINITION. The opcode map of 30_encoding.md as a decoder, total on any word and on any bytes, which
rejects by name, and after it an encoder written from the same tables. -/

namespace Sys2Proof

/-- Why the decoder gives no instruction. -/
inductive Reject where
  /-- The opcode matches no row of R93 (30_encoding.md R95). -/
  | decodeMiss (op : Word)
  /-- Fewer than the two bytes of an opcode (R90) are there: their number. -/
  | tooShort (available : Nat)
deriving DecidableEq, Repr

/-! ### Fields of an opcode (30_encoding.md R91) -/

/-- `n1 = (op >> 12) & 0xF`, the instruction class. -/
def fieldN1 (op : Word) : Nat := op.toNat / 4096 % 16

/-- `n2 = (op >> 8) & 0xF`, register X. -/
def fieldX (op : Word) : RegIndex := Fin.ofNat 16 (op.toNat / 256)

/-- `n3 = (op >> 4) & 0xF`, register Y. -/
def fieldY (op : Word) : RegIndex := Fin.ofNat 16 (op.toNat / 16)

/-- `n4 = op & 0xF`, the literal N or a sub-opcode. -/
def fieldN (op : Word) : Nat := op.toNat % 16

/-- `NN = op[7:0]` as an operand. -/
def fieldNN (op : Word) : Byte := BitVec.ofNat 8 op.toNat

/-- `NNN = op[11:0]` as an operand. -/
def fieldNNN (op : Word) : Addr := BitVec.ofNat 12 op.toNat

/-- `op[7:0]` as the sub-opcode of the E and F classes. -/
def fieldSub (op : Word) : Nat := op.toNat % 256

/-! ### Decoder (30_encoding.md R93, R95, R97) -/

/-- Class 0: only 0x00E0 and 0x00EE (R93, R95). -/
def decodeClass0 (op : Word) : Except Reject Instr :=
  if op = 0x00E0 then .ok .cls
  else if op = 0x00EE then .ok .ret
  else .error (.decodeMiss op)

/-- Class 8: n4 selects the operation (R93). -/
def decodeClass8 (op : Word) : Except Reject Instr :=
  match fieldN op with
  | 0x0 => .ok (.ldReg (fieldX op) (fieldY op))
  | 0x1 => .ok (.orReg (fieldX op) (fieldY op))
  | 0x2 => .ok (.andReg (fieldX op) (fieldY op))
  | 0x3 => .ok (.xorReg (fieldX op) (fieldY op))
  | 0x4 => .ok (.addReg (fieldX op) (fieldY op))
  | 0x5 => .ok (.subReg (fieldX op) (fieldY op))
  | 0x6 => .ok (.shr (fieldX op) (fieldY op))
  | 0x7 => .ok (.subnReg (fieldX op) (fieldY op))
  | 0xE => .ok (.shl (fieldX op) (fieldY op))
  | _ => .error (.decodeMiss op)

/-- Class E: n3 and n4 together are the sub-opcode (R93, R94). -/
def decodeClassE (op : Word) : Except Reject Instr :=
  match fieldSub op with
  | 0x9E => .ok (.skp (fieldX op))
  | 0xA1 => .ok (.sknp (fieldX op))
  | _ => .error (.decodeMiss op)

/-- Class F: n3 and n4 together are the sub-opcode (R93, R94). -/
def decodeClassF (op : Word) : Except Reject Instr :=
  match fieldSub op with
  | 0x07 => .ok (.ldVxDt (fieldX op))
  | 0x0A => .ok (.ldVxK (fieldX op))
  | 0x15 => .ok (.ldDtVx (fieldX op))
  | 0x18 => .ok (.ldStVx (fieldX op))
  | 0x1E => .ok (.addI (fieldX op))
  | 0x29 => .ok (.ldF (fieldX op))
  | 0x33 => .ok (.ldB (fieldX op))
  | 0x55 => .ok (.stRegs (fieldX op))
  | 0x65 => .ok (.ldRegs (fieldX op))
  | _ => .error (.decodeMiss op)

/-- The decoder: every 16-bit value is exactly one form with its fields, or a decode-miss (R97). The
fixed nibbles are part of the match (D7, log 10). -/
def decodeWord (op : Word) : Except Reject Instr :=
  match fieldN1 op with
  | 0x0 => decodeClass0 op
  | 0x1 => .ok (.jp (fieldNNN op))
  | 0x2 => .ok (.call (fieldNNN op))
  | 0x3 => .ok (.seImm (fieldX op) (fieldNN op))
  | 0x4 => .ok (.sneImm (fieldX op) (fieldNN op))
  | 0x5 => if fieldN op = 0 then .ok (.seReg (fieldX op) (fieldY op)) else .error (.decodeMiss op)
  | 0x6 => .ok (.ldImm (fieldX op) (fieldNN op))
  | 0x7 => .ok (.addImm (fieldX op) (fieldNN op))
  | 0x8 => decodeClass8 op
  | 0x9 => if fieldN op = 0 then .ok (.sneReg (fieldX op) (fieldY op)) else .error (.decodeMiss op)
  | 0xA => .ok (.ldI (fieldNNN op))
  | 0xB => .ok (.jpV0 (fieldNNN op))
  | 0xC => .ok (.rnd (fieldX op) (fieldNN op))
  | 0xD => .ok (.drw (fieldX op) (fieldY op) (fieldN op))
  | 0xE => decodeClassE op
  | 0xF => decodeClassF op
  | _ => .error (.decodeMiss op)

/-- Decoding bytes as they lie in memory, lower address first: the first byte is the opcode's high
byte (20_memory.md R65, D1, log 6); the bytes after the opcode are handed back. -/
def decodeBytes (bytes : List Byte) : Except Reject (Instr × List Byte) :=
  match bytes with
  | hi :: lo :: rest =>
    match decodeWord (joinBytes hi lo) with
    | .ok i => .ok (i, rest)
    | .error e => .error e
  | short => .error (.tooShort short.length)

/-- The two bytes of an opcode in memory order: high byte at the lower address (20_memory.md R65). -/
def opcodeBytes (op : Word) : List Byte :=
  [BitVec.ofNat 8 (op.toNat / 256), BitVec.ofNat 8 op.toNat]

/-- The opcode table's numbering: bit 0 is the opcode's least significant bit, every bit at or above
`nbits` is 0. -/
def tableOpcode (nbits w : Nat) : Word := BitVec.ofNat 16 (w % 2 ^ nbits)

/-- The instruction this decoder reads from a table row's word laid out as the core stores it. -/
def decodeTableWord (nbits w : Nat) : Option Instr :=
  match decodeBytes (opcodeBytes (tableOpcode nbits w)) with
  | .ok (i, _) => some i
  | .error _ => none

/-! ### Encoder (30_encoding.md R91, the table of formats) -/

/-- Format `A`: class, NNN. -/
def formatA (c : Nat) (nnn : Addr) : Word := BitVec.ofNat 16 (c * 4096 + nnn.toNat)

/-- Format `XNN`: class, X, NN. -/
def formatXNN (c : Nat) (x : RegIndex) (nn : Byte) : Word :=
  BitVec.ofNat 16 (c * 4096 + x.val * 256 + nn.toNat)

/-- Formats `XY` (with a sub-opcode in n4) and `XYN` (with N in n4). -/
def formatXY (c : Nat) (x y : RegIndex) (n4 : Nat) : Word :=
  BitVec.ofNat 16 (c * 4096 + x.val * 256 + y.val * 16 + n4 % 16)

/-- Format `X`: class, X, sub-opcode in op[7:0]. -/
def formatX (c : Nat) (x : RegIndex) (sub : Nat) : Word :=
  BitVec.ofNat 16 (c * 4096 + x.val * 256 + sub)

/-- The opcode of an instruction (opcode_table.json; 30_encoding.md R91, R93). -/
def encode (i : Instr) : Word :=
  match i with
  | .cls => 0x00E0
  | .ret => 0x00EE
  | .jp nnn => formatA 0x1 nnn
  | .call nnn => formatA 0x2 nnn
  | .seImm x nn => formatXNN 0x3 x nn
  | .sneImm x nn => formatXNN 0x4 x nn
  | .seReg x y => formatXY 0x5 x y 0x0
  | .ldImm x nn => formatXNN 0x6 x nn
  | .addImm x nn => formatXNN 0x7 x nn
  | .ldReg x y => formatXY 0x8 x y 0x0
  | .orReg x y => formatXY 0x8 x y 0x1
  | .andReg x y => formatXY 0x8 x y 0x2
  | .xorReg x y => formatXY 0x8 x y 0x3
  | .addReg x y => formatXY 0x8 x y 0x4
  | .subReg x y => formatXY 0x8 x y 0x5
  | .shr x y => formatXY 0x8 x y 0x6
  | .subnReg x y => formatXY 0x8 x y 0x7
  | .shl x y => formatXY 0x8 x y 0xE
  | .sneReg x y => formatXY 0x9 x y 0x0
  | .ldI nnn => formatA 0xA nnn
  | .jpV0 nnn => formatA 0xB nnn
  | .rnd x nn => formatXNN 0xC x nn
  | .drw x y n => formatXY 0xD x y n
  | .skp x => formatX 0xE x 0x9E
  | .sknp x => formatX 0xE x 0xA1
  | .ldVxDt x => formatX 0xF x 0x07
  | .ldVxK x => formatX 0xF x 0x0A
  | .ldDtVx x => formatX 0xF x 0x15
  | .ldStVx x => formatX 0xF x 0x18
  | .addI x => formatX 0xF x 0x1E
  | .ldF x => formatX 0xF x 0x29
  | .ldB x => formatX 0xF x 0x33
  | .stRegs x => formatX 0xF x 0x55
  | .ldRegs x => formatX 0xF x 0x65

/-! ### The table's rows -/

/-- The match and mask of an instruction's row of opcode_table.json: an opcode is of the row's form
exactly when `op & mask = match`. -/
def Instr.rowMatchMask (i : Instr) : Word × Word :=
  match i with
  | .cls => (0x00E0, 0xFFFF)
  | .ret => (0x00EE, 0xFFFF)
  | .jp _ => (0x1000, 0xF000)
  | .call _ => (0x2000, 0xF000)
  | .seImm _ _ => (0x3000, 0xF000)
  | .sneImm _ _ => (0x4000, 0xF000)
  | .seReg _ _ => (0x5000, 0xF00F)
  | .ldImm _ _ => (0x6000, 0xF000)
  | .addImm _ _ => (0x7000, 0xF000)
  | .ldReg _ _ => (0x8000, 0xF00F)
  | .orReg _ _ => (0x8001, 0xF00F)
  | .andReg _ _ => (0x8002, 0xF00F)
  | .xorReg _ _ => (0x8003, 0xF00F)
  | .addReg _ _ => (0x8004, 0xF00F)
  | .subReg _ _ => (0x8005, 0xF00F)
  | .shr _ _ => (0x8006, 0xF00F)
  | .subnReg _ _ => (0x8007, 0xF00F)
  | .shl _ _ => (0x800E, 0xF00F)
  | .sneReg _ _ => (0x9000, 0xF00F)
  | .ldI _ => (0xA000, 0xF000)
  | .jpV0 _ => (0xB000, 0xF000)
  | .rnd _ _ => (0xC000, 0xF000)
  | .drw _ _ _ => (0xD000, 0xF000)
  | .skp _ => (0xE09E, 0xF0FF)
  | .sknp _ => (0xE0A1, 0xF0FF)
  | .ldVxDt _ => (0xF007, 0xF0FF)
  | .ldVxK _ => (0xF00A, 0xF0FF)
  | .ldDtVx _ => (0xF015, 0xF0FF)
  | .ldStVx _ => (0xF018, 0xF0FF)
  | .addI _ => (0xF01E, 0xF0FF)
  | .ldF _ => (0xF029, 0xF0FF)
  | .ldB _ => (0xF033, 0xF0FF)
  | .stRegs _ => (0xF055, 0xF0FF)
  | .ldRegs _ => (0xF065, 0xF0FF)

/-- Whether an opcode is a decode-miss (30_encoding.md R95). -/
def isDecodeMiss (op : Word) : Bool :=
  match decodeWord op with
  | .ok _ => false
  | .error _ => true

end Sys2Proof
end

