-- ==== Sys2Proof/Machine/Fetch.lean ====
section
/-! DEFINITION. What surrounds an instruction in a step (40_cycle.md): the host's turn before it, the
fetch, the PC advance and the decode-miss. -/

namespace Sys2Proof.Machine

/-- The host's turn before the next step: the oldest scheduled one, or, when none is scheduled, a turn of
which nothing is known (10_state.md R30, R37, R38; log 12). -/
def State.hostTurn (s : State) : HostTurn :=
  match s.schedule with
  | t :: _ => t
  | [] =>
    { ticks := Config.freeTicks s.turn, keys := Config.freeKeys s.turn, rnd := Config.freeRnd s.turn }

/-- The step begins: the host has ticked the timers and presents its keys and random byte (10_state.md R36
to R38; log 14). Nothing else of the core changes between steps (R40). -/
def State.beginStep (s : State) : State :=
  { s with
    dt := tickTimes s.hostTurn.ticks s.dt
    st := tickTimes s.hostTurn.ticks s.st
    keys := s.hostTurn.keys
    rnd := s.hostTurn.rnd
    schedule := s.schedule.tail
    turn := s.turn + 1 }

/-- Fetch the opcode at PC, or raise OutOfBounds with the lowest address out of range (R121). -/
def fetch (s : State) : Except Fault Word :=
  if inBounds s.pc.toNat 2 then .ok (s.mem.opcodeAt s.pc.toNat)
  else .error (.outOfBounds (firstOutOfBounds s.pc.toNat))

/-- After a successful fetch PC is advanced by 2 before the instruction executes (R122). -/
def State.advance (s : State) : State := s.setPc (s.pc + 2)

/-- A decode-miss changes nothing but the PC advance and reports the opcode (R125, log 10). -/
def finishDecodeMiss (op : Word) (s : State) : Result := .next (s.setReport (.decodeMiss op))

/-- The address from which `withFetchWord` arranges that the next step fetches: PC where an opcode can be
fetched from it, else the entry point 0x200 (log 23). -/
def fetchablePc (pc : Word) : Word := if inBounds pc.toNat 2 then pc else 0x200

/-- A table row's word stored where the next step fetches (log 23). -/
def placeWord (s : State) (nbits w : Nat) : State :=
  (s.setPc (fetchablePc s.pc)).storeBytes (fetchablePc s.pc).toNat (opcodeBytes (tableOpcode nbits w))

end Sys2Proof.Machine
end

