-- ==== Sys2Proof/Machine/Step.lean ====
section
/-! DEFINITION. One step: exactly one fetch-decode-execute cycle (40_cycle.md R120). -/

namespace Sys2Proof.Machine

/-- Fetch, advance PC, decode, execute, in that order; the first of them that ends the step decides its
outcome (40_cycle.md R120, R127). -/
def cycle (s : State) : Result :=
  match fetch s with
  | .error f => raiseError f
  | .ok op =>
    match decodeWord op with
    | .ok i => exec i s.advance
    | .error _ => finishDecodeMiss op s.advance

/-- One step of the core, with what the host does before it (10_state.md R34, R35). -/
def step (s : State) : Host.Outcome State Fault Refusal := cycle s.beginStep

/-- `s` with a table row's word stored where the next step fetches. -/
def State.withFetchWord (s : State) (nbits w : Nat) : State := placeWord s nbits w

end Sys2Proof.Machine
end

