-- ==== Sys2Proof/Machine/HostPort.lean ====
section
/-! DEFINITION. The host's transactions between steps (10_state.md R35 to R40; 70_reset_and_hazards.md
R340 to R342) and the numeric outcome codes (60_exceptions.md R300). -/

namespace Sys2Proof.Machine

/-- The longest ROM: 4096 - 512 bytes (70_reset_and_hazards.md R341). -/
abbrev maxRomLength : Nat := 3584

/-- Where a ROM is loaded and the first step fetches (70_reset_and_hazards.md R341, R343). -/
abbrev entryPoint : Nat := 0x200

/-- Reset and load in one transaction (10_state.md R40): every piece of core state to its reset value, the
ROM verbatim from 0x200, or LoadTooLarge (70_reset_and_hazards.md R340 to R342). The host's own future,
its schedule and the count its free turns hang on, is not reset (log 22). -/
def State.restart (s : State) (rom : List Byte) : Result :=
  if rom.length ≤ maxRomLength then
    .next { State.reset.storeBytes entryPoint rom with schedule := s.schedule, turn := s.turn }
  else raiseError (.loadTooLarge rom.length)

/-- The reset and load at the emulator's start (R340). -/
def load (rom : List Byte) : Result := State.reset.restart rom

/-- One timer tick of the host (10_state.md R38). -/
def State.tick (s : State) : State := { s with dt := tickTimer s.dt, st := tickTimer s.st }

/-- The host reads DT (R38). -/
def State.readDt (s : State) : Byte := s.dt

/-- The host reads ST (R38). -/
def State.readSt (s : State) : Byte := s.st

/-- The host reads the display after a step, row-major (R39). -/
def State.frameBuffer (s : State) : List Bool := s.display.rowMajor

/-- The host settles its next turn in advance: after the turns already scheduled (log 12). -/
def State.plan (s : State) (t : HostTurn) : State := { s with schedule := s.schedule ++ [t] }

/-- The numeric code of an outcome that leaves a next state (60_exceptions.md R300, D26). -/
def Report.code (r : Report) : Option Nat :=
  match r with
  | .noStep => none
  | .ok => some 0
  | .decodeMiss _ => some 1
  | .awaitingKey => some 2

/-- The numeric code of an error (60_exceptions.md R300, D26). -/
def Fault.code (f : Fault) : Nat :=
  match f with
  | .outOfBounds _ => 3
  | .stackOverflow => 4
  | .stackUnderflow => 5
  | .loadTooLarge _ => 6

/-- The numeric code of what a step returned (60_exceptions.md R300, D26). -/
def outcomeCode (r : Result) : Option Nat :=
  match r with
  | .next s => s.report.code
  | .fault f => some f.code
  | .refused _ => none

end Sys2Proof.Machine
end

