-- ==== Sys2Proof/Safety.lean ====
section
/-! DEFINITION. What counts as a safe run, and the invariant of the states a run reaches. -/

namespace Sys2Proof.Machine

/-- The invariant of the core: memory has its canonical form, I is a 12-bit value (10_state.md R23), no
stack entry exceeds 0x1000 (41_flow.md R143) and PC is at most 0x10FE (10_state.md R24). -/
abbrev State.Inv (s : State) : Prop :=
  s.mem.wf = true ∧ s.i.toNat ≤ 0xFFF ∧ (∀ k : Fin 16, s.stack[k].toNat ≤ 0x1000) ∧ s.pc.toNat ≤ 0x10FE

/-- The states the core and its host reach: a ROM is loaded with reset (10_state.md R40), at the start or
again later, the host may settle turns in advance, and the core steps. -/
inductive Reachable : State → Prop where
  | load (rom : List Byte) (s : State) (h : Sys2Proof.Machine.load rom = .next s) : Reachable s
  | restart (s s' : State) (rom : List Byte) (h : Reachable s) (hr : s.restart rom = .next s') : Reachable s'
  | plan (s : State) (t : HostTurn) (h : Reachable s) : Reachable (s.plan t)
  | step (s s' : State) (h : Reachable s) (hs : Sys2Proof.Machine.step s = .next s') : Reachable s'

/-- A run of `n` steps from `s` is safe when no step raises an error or is refused. A decode-miss and a
wait for a key are no errors (60_exceptions.md R300). -/
def safeRun (n : Nat) (s : State) : Prop :=
  match n with
  | 0 => True
  | k + 1 => ∃ s', step s = .next s' ∧ safeRun k s'

/-- The error a step raises, if it raises one. -/
def faultOf (r : Result) : Option Fault :=
  match r with
  | .fault f => some f
  | .next _ => none
  | .refused _ => none

/-- The next state of a result, if there is one. -/
def nextOf (r : Result) : Option State :=
  match r with
  | .next s => some s
  | .fault _ => none
  | .refused _ => none

end Sys2Proof.Machine
end

