-- ==== Sys2Proof/Certificates/Slice0/Obligations.lean ====
section
/-! DEFINITION. What is claimed of the model, from the numbered rules of spec/. The statements about `exec`
start after the PC advance of 40_cycle.md R122, as the rules' pseudocode does. A clause `decodeWord … = .ok …`
formalises a rule's Encoding line. -/

open Sys2Proof Sys2Proof.Machine

namespace Sys2Proof.Claims

/-- Only the general registers changed, and the outcome is Ok. -/
def regsOnly (s t : State) : Prop := t = { s with v := t.v, report := .ok }

/-- Result `r` completes from `s` with VX holding `value` and nothing else of the core changed. -/
def writesReg (s : State) (x : RegIndex) (value : Nat) (r : Result) : Prop :=
  ∃ t, r = .next t ∧ (t.reg x).toNat = value ∧ (∀ k, k ≠ x → t.reg k = s.reg k) ∧ regsOnly s t

/-- Result `r` completes from `s` with VF holding `flag`, VX holding `value` unless it is VF, and nothing
else of the core changed. -/
def writesRegFlag (s : State) (x : RegIndex) (value flag : Nat) (r : Result) : Prop :=
  ∃ t, r = .next t ∧ (t.reg 15).toNat = flag ∧ (x ≠ 15 → (t.reg x).toNat = value) ∧
    (∀ k, k ≠ x → k ≠ 15 → t.reg k = s.reg k) ∧ regsOnly s t

/-- A skip on condition `c`, decided exactly one way (41_flow.md R140): PC moves by 2 or not at all, and
nothing else of the core changes. -/
def skips (s : State) (c : Prop) (r : Result) : Prop :=
  (c → r = .next { s with pc := s.pc + 2, report := .ok }) ∧ (¬c → r = .next { s with report := .ok })

/-- The number a byte of a pair of nibble, nibble, byte fields gives (30_encoding.md R91). -/
def opXNN (c : Nat) (x : RegIndex) (nn : Byte) : Word := BitVec.ofNat 16 (c * 0x1000 + x.val * 0x100 + nn.toNat)

/-- An opcode with two register fields and a low nibble (30_encoding.md R91). -/
def opXYN (c : Nat) (x y : RegIndex) (n : Nat) : Word :=
  BitVec.ofNat 16 (c * 0x1000 + x.val * 0x100 + y.val * 0x10 + n)

/-- An opcode with an address field (30_encoding.md R91). -/
def opNNN (c : Nat) (nnn : Addr) : Word := BitVec.ofNat 16 (c * 0x1000 + nnn.toNat)

/-- An opcode with one register field and a sub-opcode byte (30_encoding.md R91). -/
def opX (c : Nat) (x : RegIndex) (sub : Nat) : Word := BitVec.ofNat 16 (c * 0x1000 + x.val * 0x100 + sub)

/-- The cell that sprite column `c` and row `r` reaches under each `DRAW_EDGE`, in the words of
44_display.md R200. -/
def reaches (edge : DrawEdge) (x0 y0 c r : Nat) (p : Cell) : Prop :=
  match edge with
  | .clip => p.x.val = x0 + c ∧ p.y.val = y0 + r
  | .wrapOriginClip => p.x.val = x0 % 64 + c ∧ p.y.val = y0 % 32 + r
  | .wrap => p.x.val = (x0 + c) % 64 ∧ p.y.val = (y0 + r) % 32

/-- Some sprite bit of 1 of the `n` rows at I, drawn at (VX, VY), is placed on cell `p` (44_display.md R200,
R201, R203). -/
def spriteSets (edge : DrawEdge) (s : State) (x y : RegIndex) (n : Nat) (p : Cell) : Prop :=
  ∃ r c, r < n ∧ c < 8 ∧ (s.byte (s.i.toNat + r)).getLsbD (7 - c) = true ∧
    reaches edge (s.reg x).toNat (s.reg y).toNat c r p

/-- What a draw does when its sprite lies in memory (44_display.md R203): the cells under a placed sprite bit
of 1 flip, VF says whether one of them was set, nothing else of the core changes. -/
def draws (edge : DrawEdge) (s : State) (x y : RegIndex) (n : Nat) (r : Result) : Prop :=
  ∃ t, r = .next t ∧
    (∀ p, spriteSets edge s x y n p → t.display.get p = !s.display.get p) ∧
    (∀ p, ¬spriteSets edge s x y n p → t.display.get p = s.display.get p) ∧
    ((∃ p, spriteSets edge s x y n p ∧ s.display.get p = true) → t.reg 15 = 1) ∧
    ((¬∃ p, spriteSets edge s x y n p ∧ s.display.get p = true) → t.reg 15 = 0) ∧
    (∀ k, k ≠ 15 → t.reg k = s.reg k) ∧
    t = { s with v := t.v, display := t.display, report := .ok }

/-- The bytes of the table of 20_memory.md R63, in ascending address order from 0x000. PRESUMED: the widely
published font, general knowledge as the spec marks it (log 5). -/
def fontOfR63 : List Byte :=
  [0xF0, 0x90, 0x90, 0x90, 0xF0, 0x20, 0x60, 0x20, 0x20, 0x70] ++
  [0xF0, 0x10, 0xF0, 0x80, 0xF0, 0xF0, 0x10, 0xF0, 0x10, 0xF0] ++
  [0x90, 0x90, 0xF0, 0x10, 0x10, 0xF0, 0x80, 0xF0, 0x10, 0xF0] ++
  [0xF0, 0x80, 0xF0, 0x90, 0xF0, 0xF0, 0x10, 0x20, 0x40, 0x40] ++
  [0xF0, 0x90, 0xF0, 0x90, 0xF0, 0xF0, 0x90, 0xF0, 0x10, 0xF0] ++
  [0xF0, 0x90, 0xF0, 0x90, 0x90, 0xE0, 0x90, 0xE0, 0x90, 0xE0] ++
  [0xF0, 0x80, 0x80, 0x80, 0xF0, 0xE0, 0x90, 0x90, 0x90, 0xE0] ++
  [0xF0, 0x80, 0xF0, 0x80, 0xF0, 0xF0, 0x80, 0xF0, 0x80, 0x80]

/-- The instructions that write VF as a flag (10_state.md R22). -/
def writesFlag (i : Instr) : Prop :=
  (∃ x y, i = .addReg x y ∨ i = .subReg x y ∨ i = .subnReg x y ∨ i = .shr x y ∨ i = .shl x y) ∨
  ∃ x y n, i = .drw x y n

/-- The instructions that write Vk: as destination VX, as one of the registers `FX65` loads, or as the flag
(10_state.md R21, R22). -/
def mayWriteReg (i : Instr) (k : RegIndex) : Prop :=
  (∃ nn, i = .ldImm k nn ∨ i = .addImm k nn ∨ i = .rnd k nn) ∨
  (∃ y, i = .ldReg k y ∨ i = .orReg k y ∨ i = .andReg k y ∨ i = .xorReg k y ∨ i = .addReg k y ∨
    i = .subReg k y ∨ i = .subnReg k y ∨ i = .shr k y ∨ i = .shl k y) ∨
  i = .ldVxDt k ∨ i = .ldVxK k ∨ (∃ x, k ≤ x ∧ i = .ldRegs x) ∨ (k = 15 ∧ writesFlag i)

/-- The instructions that change PC while they execute: jumps, calls and returns, skips, and the rewind of
`FX0A` (10_state.md R24; 45_keypad_timers.md R224). -/
def mayChangePc (i : Instr) : Prop :=
  (∃ nnn, i = .jp nnn ∨ i = .call nnn ∨ i = .jpV0 nnn) ∨ i = .ret ∨
  (∃ x nn, i = .seImm x nn ∨ i = .sneImm x nn) ∨ (∃ x y, i = .seReg x y ∨ i = .sneReg x y) ∨
  ∃ x, i = .skp x ∨ i = .sknp x ∨ i = .ldVxK x

/-- Two states whose stacks agree on the entries in use, and that agree on every other field. -/
def sameButStale (s t : State) : Prop :=
  t = { s with stack := t.stack } ∧ ∀ k : Fin 16, k.val < s.sp.val → t.stack[k] = s.stack[k]

/-- Two results of the same kind: equal errors, or next states related by `rel`. -/
def sameResult (rel : State → State → Prop) (r q : Result) : Prop :=
  match r, q with
  | .next s, .next t => rel s t
  | .fault f, .fault g => f = g
  | .refused a, .refused b => a = b
  | _, _ => False

end Sys2Proof.Claims

open Sys2Proof.Claims

/-! ### Encoding (30_encoding.md) -/

/-- Decode and encode agree: decoding the opcode of a well-formed instruction gives it back, with every
operand at every value its field admits. -/
def Obligations.DecodeOfEncodeGivesTheInstruction : Prop :=
  ∀ i : Instr, i.wellFormed = true → decodeWord (encode i) = .ok i

/-- Every 16-bit value is a decode-miss, or decodes to exactly one well-formed instruction, whose opcode it
is. -/
def Obligations.EveryWordIsOneInstructionsOpcodeOrAMiss : Prop :=
  ∀ op : Word,
    (decodeWord op = .error (.decodeMiss op) ∧ ∀ i, i.wellFormed = true → encode i ≠ op) ∨
    ∃ i, decodeWord op = .ok i ∧ i.wellFormed = true ∧ encode i = op ∧
      ∀ j, j.wellFormed = true → encode j = op → j = i

/-- The decode-miss space is exactly the one the spec lists (30_encoding.md, Reserved, illegal and hint encodings; the fixed
nibbles and 0NNN are D6 and D7, log 10). -/
def Obligations.DecodeMissSpaceIsAsListed : Prop :=
  ∀ op : Word, isDecodeMiss op = true ↔
    (op.toNat / 0x1000 = 0 ∧ op ≠ 0x00E0 ∧ op ≠ 0x00EE) ∨
    ((op.toNat / 0x1000 = 5 ∨ op.toNat / 0x1000 = 9) ∧ op.toNat % 16 ≠ 0) ∨
    (op.toNat / 0x1000 = 8 ∧ op.toNat % 16 ∈ [8, 9, 0xA, 0xB, 0xC, 0xD, 0xF]) ∨
    (op.toNat / 0x1000 = 0xE ∧ op.toNat % 256 ∉ [0x9E, 0xA1]) ∨
    (op.toNat / 0x1000 = 0xF ∧
      op.toNat % 256 ∉ [0x07, 0x0A, 0x15, 0x18, 0x1E, 0x29, 0x33, 0x55, 0x65])

/-- The counts of the decode-miss space, class by class, that the spec gives for a decoder test. -/
def Obligations.DecodeMissCountsByClass : Prop :=
  ((List.range 0x1000).countP fun k => isDecodeMiss (BitVec.ofNat 16 k)) = 4094 ∧
  ((List.range 0x1000).countP fun k => isDecodeMiss (BitVec.ofNat 16 (0x5000 + k))) = 3840 ∧
  ((List.range 0x1000).countP fun k => isDecodeMiss (BitVec.ofNat 16 (0x8000 + k))) = 1792 ∧
  ((List.range 0x1000).countP fun k => isDecodeMiss (BitVec.ofNat 16 (0x9000 + k))) = 3840 ∧
  ((List.range 0x1000).countP fun k => isDecodeMiss (BitVec.ofNat 16 (0xE000 + k))) = 4064 ∧
  ((List.range 0x1000).countP fun k => isDecodeMiss (BitVec.ofNat 16 (0xF000 + k))) = 3952

/-- Words written out from the opcode map decode to the instructions they stand for, one or more of every
family. -/
def Obligations.WordsOfEveryFamilyDecode : Prop :=
  decodeWord 0x00E0 = .ok .cls ∧ decodeWord 0x00EE = .ok .ret ∧ decodeWord 0x220E = .ok (.call 0x20E) ∧
  decodeWord 0x3342 = .ok (.seImm 3 0x42) ∧ decodeWord 0x5120 = .ok (.seReg 1 2) ∧
  decodeWord 0x6105 = .ok (.ldImm 1 0x05) ∧ decodeWord 0x8127 = .ok (.subnReg 1 2) ∧
  decodeWord 0xA300 = .ok (.ldI 0x300) ∧ decodeWord 0xC30F = .ok (.rnd 3 0x0F) ∧
  decodeWord 0xD125 = .ok (.drw 1 2 5) ∧ decodeWord 0xE2A1 = .ok (.sknp 2) ∧
  decodeWord 0xF133 = .ok (.ldB 1) ∧ decodeWord 0xF555 = .ok (.stRegs 5) ∧
  decodeWord 0x5121 = .error (.decodeMiss 0x5121) ∧ decodeWord 0x0123 = .error (.decodeMiss 0x0123)

/-! ### The cycle (40_cycle.md, 20_memory.md) -/

/-- A fetch within memory forms the opcode with the byte at PC as its high byte (20_memory.md, Byte order;
D1, log 6), and the decoder reads the two bytes as that opcode. -/
def Obligations.FetchReadsHighByteFirst : Prop :=
  ∀ s : State, s.pc.toNat ≤ 0xFFE →
    ∃ op, fetch s = .ok op ∧
      op.toNat = (s.byte s.pc.toNat).toNat * 256 + (s.byte (s.pc.toNat + 1)).toNat ∧
      ∀ i, decodeBytes [s.byte s.pc.toNat, s.byte (s.pc.toNat + 1)] = .ok (i, []) ↔ decodeWord op = .ok i

/-- A step runs the decoded instruction: when the two bytes at PC decode to `i`, the step is `exec i` on the
state in which the host's turn has taken place and PC is advanced by 2. -/
def Obligations.StepRunsTheDecodedInstruction : Prop :=
  ∀ (s : State) (i : Instr), s.pc.toNat ≤ 0xFFE →
    decodeBytes [s.byte s.pc.toNat, s.byte (s.pc.toNat + 1)] = .ok (i, []) →
    step s = exec i
      { s with
        pc := s.pc + 2
        dt := tickTimes s.hostTurn.ticks s.dt
        st := tickTimes s.hostTurn.ticks s.st
        keys := s.hostTurn.keys
        rnd := s.hostTurn.rnd
        schedule := s.schedule.tail
        turn := s.turn + 1 }

/-- A decode-miss advances PC by 2, reports the opcode and changes nothing else of the core; what the host's
turn does (log 12) is all the rest. -/
def Obligations.DecodeMissOnlyAdvancesPc : Prop :=
  ∀ (s : State) (op : Word), s.pc.toNat ≤ 0xFFE →
    op.toNat = (s.byte s.pc.toNat).toNat * 256 + (s.byte (s.pc.toNat + 1)).toNat →
    isDecodeMiss op = true →
    step s = .next { s.beginStep with pc := s.pc + 2, report := .decodeMiss op }

/-- A fetch that does not lie in memory ends the step with OutOfBounds and the lowest address out of range,
whatever memory holds (40_cycle.md, Fetch; D3, log 7). -/
def Obligations.FetchOutsideMemoryIsOutOfBounds : Prop :=
  ∀ s : State, 0xFFF ≤ s.pc.toNat →
    step s = .fault (.outOfBounds (if s.pc.toNat = 0xFFF then 0x1000 else s.pc.toNat))

/-- The host's turn of a step is the oldest scheduled one, which is then used up, or else a free one: any
ticks, keys and byte the opaque constants of Config may stand for (log 12). -/
def Obligations.HostTurnIsTheScheduledOneOrFree : Prop :=
  (∀ (s : State) (t : HostTurn) (rest : List HostTurn), s.schedule = t :: rest →
    s.beginStep = { s with
      dt := tickTimes t.ticks s.dt, st := tickTimes t.ticks s.st, keys := t.keys, rnd := t.rnd,
      schedule := rest, turn := s.turn + 1 }) ∧
  (∀ s : State, s.schedule = [] →
    s.beginStep = { s with
      dt := tickTimes (Config.freeTicks s.turn) s.dt, st := tickTimes (Config.freeTicks s.turn) s.st,
      keys := Config.freeKeys s.turn, rnd := Config.freeRnd s.turn, turn := s.turn + 1 })

/-- Any number of host ticks counts a timer down to 0 and leaves it there (10_state.md, Block interface;
the decrement by 1 is K5, log 14). -/
def Obligations.TicksCountATimerDownToZero : Prop :=
  ∀ (n : Nat) (t : Byte), (tickTimes n t).toNat = t.toNat - n

/-- One timer tick of the host (10_state.md, Block interface; K5, log 14). -/
def Obligations.HostTickDecrementsNonzeroTimers : Prop :=
  ∀ s : State,
    (0 < s.dt.toNat → s.tick.dt.toNat = s.dt.toNat - 1) ∧ (s.dt.toNat = 0 → s.tick.dt = s.dt) ∧
    (0 < s.st.toNat → s.tick.st.toNat = s.st.toNat - 1) ∧ (s.st.toNat = 0 → s.tick.st = s.st) ∧
    s.tick = { s with dt := s.tick.dt, st := s.tick.st }

/-- Opcode bytes stored at PC are what the next fetch reads (20_memory.md, Ordering and synchronisation: fetch is coherent with
data writes). The premise on memory is the invariant that every step keeps. -/
def Obligations.StoredOpcodeIsFetched : Prop :=
  ∀ (s : State) (op : Word), s.mem.wf = true → s.pc.toNat ≤ 0xFFE →
    fetch (s.storeBytes s.pc.toNat (opcodeBytes op)) = .ok op

/-! ### Reset and load (10_state.md R41, 70_reset_and_hazards.md) -/

/-- After reset with a ROM that fits, every piece of core state has the value the spec gives it
(10_state.md, Reset values; "all zeroed" is read as D28, log 22). The font is parameter FONT, whose bytes are
those of 20_memory.md R63: that clause is PRESUMED (log 5). -/
def Obligations.LoadGivesTheResetValues : Prop :=
  ∀ rom : List Byte, rom.length ≤ 3584 →
    ∃ s, load rom = .next s ∧ (∀ x, s.reg x = 0) ∧ s.i = 0 ∧ s.pc = 0x200 ∧
      (∀ k : Fin 16, s.stack[k] = 0) ∧ s.sp = 0 ∧ s.dt = 0 ∧ s.st = 0 ∧
      (∀ p, s.display.get p = false) ∧
      (∀ a, a < 80 → some (s.byte a) = params.font[a]?) ∧
      (∀ a, a < 80 → some (s.byte a) = fontOfR63[a]?) ∧
      (∀ a, 0x50 ≤ a → a < 0x200 → s.byte a = 0) ∧
      (∀ j, j < rom.length → some (s.byte (0x200 + j)) = rom[j]?) ∧
      (∀ a, 0x200 + rom.length ≤ a → a ≤ 0xFFF → s.byte a = 0) ∧
      (rom = [] → s = State.reset)

/-- A ROM longer than 3584 bytes is refused (70_reset_and_hazards.md R342) and no state exists; one of exactly 3584 bytes is accepted and
fills 0x200 to 0xFFF. -/
def Obligations.OversizeRomIsRefusedAtLoad : Prop :=
  (∀ rom : List Byte, 3584 < rom.length → load rom = .fault (.loadTooLarge rom.length)) ∧
  (∀ rom : List Byte, rom.length = 3584 →
    ∃ s, load rom = .next s ∧ ∀ a, 0x200 ≤ a → a ≤ 0xFFF → some (s.byte a) = rom[a - 0x200]?)

/-- The reset state satisfies the invariant. -/
def Obligations.ResetSatisfiesTheInvariant : Prop := State.reset.Inv

/-- Every state the host can load or reload satisfies the invariant. -/
def Obligations.RestartSatisfiesTheInvariant : Prop :=
  ∀ (s t : State) (rom : List Byte), s.restart rom = .next t → t.Inv

/-- Every step keeps the invariant: memory in canonical form, I a 12-bit value, no stack entry above 0x1000,
PC at most 0x10FE. -/
def Obligations.StepKeepsTheInvariant : Prop :=
  ∀ s t : State, s.Inv → step s = .next t → t.Inv

/-- Every state the core and its host reach satisfies the invariant. -/
def Obligations.ReachableStatesSatisfyTheInvariant : Prop :=
  ∀ s : State, Reachable s → s.Inv

/-- The canonical form determines memory: two memories in it that read alike everywhere are equal. -/
def Obligations.CanonicalMemoriesThatReadAlikeAreEqual : Prop :=
  ∀ m m' : Memory, m.wf = true → m'.wf = true → (∀ a, a ≤ 0xFFF → m.read a = m'.read a) → m = m'

/-! ### Control transfer (41_flow.md) -/

/-- 00EE (41_flow.md R141): with SP = 0 StackUnderflow; otherwise SP goes down by 1, PC becomes the entry it then names, and
nothing else changes, that entry included. -/
def Obligations.ReturnPopsTheStack : Prop :=
  decodeWord 0x00EE = .ok .ret ∧
  (∀ s : State, s.sp = 0 → exec .ret s = .fault .stackUnderflow) ∧
  (∀ (s : State) (k : Fin 16), s.sp.val = k.val + 1 →
    exec .ret s = .next { s with sp := k.castSucc, pc := s.stack[k], report := .ok })

/-- 1NNN: PC becomes NNN and nothing else changes (41_flow.md R142). -/
def Obligations.JumpSetsPc : Prop :=
  ∀ (nnn : Addr) (s : State),
    decodeWord (opNNN 0x1 nnn) = .ok (.jp nnn) ∧
    exec (.jp nnn) s = .next { s with pc := BitVec.ofNat 16 nnn.toNat, report := .ok }

/-- 2NNN (41_flow.md R143): with SP = 16 StackOverflow; otherwise PC, the address after the call, is pushed, SP goes up by 1,
PC becomes NNN and nothing else changes. -/
def Obligations.CallPushesTheReturnAddress : Prop :=
  ∀ (nnn : Addr),
    decodeWord (opNNN 0x2 nnn) = .ok (.call nnn) ∧
    (∀ s : State, s.sp = 16 → exec (.call nnn) s = .fault .stackOverflow) ∧
    (∀ (s : State) (k : Fin 16), s.sp.val = k.val →
      ∃ t, exec (.call nnn) s = .next t ∧ t.sp.val = k.val + 1 ∧ t.pc = BitVec.ofNat 16 nnn.toNat ∧
        t.stack[k] = s.pc ∧ (∀ j : Fin 16, j ≠ k → t.stack[j] = s.stack[j]) ∧
        t = { s with stack := t.stack, sp := t.sp, pc := t.pc, report := .ok })

/-- 3XNN and 4XNN skip on VX = NN and on VX ≠ NN (41_flow.md R144, R145). -/
def Obligations.ImmediateSkipsCompareVxWithNn : Prop :=
  ∀ (x : RegIndex) (nn : Byte) (s : State),
    decodeWord (opXNN 0x3 x nn) = .ok (.seImm x nn) ∧ decodeWord (opXNN 0x4 x nn) = .ok (.sneImm x nn) ∧
    skips s (s.reg x = nn) (exec (.seImm x nn) s) ∧ skips s (s.reg x ≠ nn) (exec (.sneImm x nn) s)

/-- 5XY0 and 9XY0 skip on VX = VY and on VX ≠ VY (41_flow.md R146, R147). -/
def Obligations.RegisterSkipsCompareVxWithVy : Prop :=
  ∀ (x y : RegIndex) (s : State),
    decodeWord (opXYN 0x5 x y 0) = .ok (.seReg x y) ∧ decodeWord (opXYN 0x9 x y 0) = .ok (.sneReg x y) ∧
    (∀ n, 0 < n → n ≤ 15 → isDecodeMiss (opXYN 0x5 x y n) = true ∧ isDecodeMiss (opXYN 0x9 x y n) = true) ∧
    skips s (s.reg x = s.reg y) (exec (.seReg x y) s) ∧ skips s (s.reg x ≠ s.reg y) (exec (.sneReg x y) s)

/-- BNNN: PC becomes NNN + V0, unmasked (41_flow.md, Jump with offset; D3, log 7). -/
def Obligations.OffsetJumpAddsV0 : Prop :=
  ∀ (nnn : Addr) (s : State),
    decodeWord (opNNN 0xB nnn) = .ok (.jpV0 nnn) ∧
    ∃ t, exec (.jpV0 nnn) s = .next t ∧ t.pc.toNat = nnn.toNat + (s.reg 0).toNat ∧
      t = { s with pc := t.pc, report := .ok }

/-- A return undoes a call: PC, SP and every entry that was in use are as they were. -/
def Obligations.ReturnAfterCallComesBack : Prop :=
  ∀ (s t : State) (nnn : Addr), exec (.call nnn) s = .next t →
    ∃ u, exec .ret t = .next u ∧ u.pc = s.pc ∧ u.sp = s.sp ∧
      ∀ k : Fin 16, k.val < s.sp.val → u.stack[k] = s.stack[k]

/-! ### Loads and ALU (42_alu.md) -/

/-- 6XNN: VX becomes NN (42_alu.md R162). -/
def Obligations.LoadImmediateWritesNn : Prop :=
  ∀ (x : RegIndex) (nn : Byte) (s : State),
    decodeWord (opXNN 0x6 x nn) = .ok (.ldImm x nn) ∧ writesReg s x nn.toNat (exec (.ldImm x nn) s)

/-- 7XNN: the sum modulo 256, and no carry flag (42_alu.md R163). -/
def Obligations.AddImmediateWrapsAndTouchesNoFlag : Prop :=
  ∀ (x : RegIndex) (nn : Byte) (s : State),
    decodeWord (opXNN 0x7 x nn) = .ok (.addImm x nn) ∧
    writesReg s x (((s.reg x).toNat + nn.toNat) % 256) (exec (.addImm x nn) s)

/-- 8XY0: VX becomes VY (42_alu.md R164). -/
def Obligations.CopyRegisterWritesVy : Prop :=
  ∀ (x y : RegIndex) (s : State),
    decodeWord (opXYN 0x8 x y 0x0) = .ok (.ldReg x y) ∧ writesReg s x (s.reg y).toNat (exec (.ldReg x y) s)

/-- 8XY1, 8XY2, 8XY3; VF is unchanged unless it is the destination (42_alu.md; D8, log 16). -/
def Obligations.LogicOperationsLeaveVfAlone : Prop :=
  ∀ (x y : RegIndex) (s : State),
    decodeWord (opXYN 0x8 x y 0x1) = .ok (.orReg x y) ∧ decodeWord (opXYN 0x8 x y 0x2) = .ok (.andReg x y) ∧
    decodeWord (opXYN 0x8 x y 0x3) = .ok (.xorReg x y) ∧
    writesReg s x ((s.reg x).toNat ||| (s.reg y).toNat) (exec (.orReg x y) s) ∧
    writesReg s x ((s.reg x).toNat &&& (s.reg y).toNat) (exec (.andReg x y) s) ∧
    writesReg s x ((s.reg x).toNat ^^^ (s.reg y).toNat) (exec (.xorReg x y) s)

/-- 8XY4 (42_alu.md R168): the sum modulo 256, then VF = 1 iff the exact sum exceeds 255; with X = F VF holds the carry. -/
def Obligations.AddSetsCarry : Prop :=
  ∀ (x y : RegIndex) (s : State),
    decodeWord (opXYN 0x8 x y 0x4) = .ok (.addReg x y) ∧
    writesRegFlag s x (((s.reg x).toNat + (s.reg y).toNat) % 256)
      (if (s.reg x).toNat + (s.reg y).toNat > 255 then 1 else 0) (exec (.addReg x y) s)

/-- 8XY5 and 8XY7 (42_alu.md R169, R171): the difference modulo 256, then VF = 1 iff there is no borrow. -/
def Obligations.SubtractionsSetNotBorrow : Prop :=
  ∀ (x y : RegIndex) (s : State),
    decodeWord (opXYN 0x8 x y 0x5) = .ok (.subReg x y) ∧ decodeWord (opXYN 0x8 x y 0x7) = .ok (.subnReg x y) ∧
    writesRegFlag s x (((s.reg x).toNat + 256 - (s.reg y).toNat) % 256)
      (if (s.reg x).toNat ≥ (s.reg y).toNat then 1 else 0) (exec (.subReg x y) s) ∧
    writesRegFlag s x (((s.reg y).toNat + 256 - (s.reg x).toNat) % 256)
      (if (s.reg y).toNat ≥ (s.reg x).toNat then 1 else 0) (exec (.subnReg x y) s)

/-- 8XY6 and 8XYE: a shift by one of the source that `SHIFT_SOURCE` names, then VF = the bit shifted out;
`exec` takes `vx` (42_alu.md, Shift right and Shift left; D9, log 2). -/
def Obligations.ShiftsSetTheBitShiftedOut : Prop :=
  ∀ (x y : RegIndex) (s : State),
    decodeWord (opXYN 0x8 x y 0x6) = .ok (.shr x y) ∧ decodeWord (opXYN 0x8 x y 0xE) = .ok (.shl x y) ∧
    writesRegFlag s x ((s.reg x).toNat / 2) ((s.reg x).toNat % 2) (exec (.shr x y) s) ∧
    writesRegFlag s x ((s.reg x).toNat * 2 % 256) ((s.reg x).toNat / 128) (exec (.shl x y) s) ∧
    ∀ cfg : Config, cfg.shiftSource = .vy →
      writesRegFlag s x ((s.reg y).toNat / 2) ((s.reg y).toNat % 2) (shrWith cfg x y s) ∧
      writesRegFlag s x ((s.reg y).toNat * 2 % 256) ((s.reg y).toNat / 128) (shlWith cfg x y s)

/-- CXNN: the step's random byte, whatever it is, ANDed with NN (42_alu.md, Random; D21, log 15). -/
def Obligations.RandomIsMaskedByNn : Prop :=
  ∀ (x : RegIndex) (nn : Byte) (s : State),
    decodeWord (opXNN 0xC x nn) = .ok (.rnd x nn) ∧
    writesReg s x (s.rnd.toNat &&& nn.toNat) (exec (.rnd x nn) s)

/-! ### Index register and memory (43_index_memory.md) -/

/-- ANNN: I becomes NNN (43_index_memory.md R180). -/
def Obligations.LoadIndexSetsI : Prop :=
  ∀ (nnn : Addr) (s : State),
    decodeWord (opNNN 0xA nnn) = .ok (.ldI nnn) ∧
    exec (.ldI nnn) s = .next { s with i := BitVec.ofNat 16 nnn.toNat, report := .ok }

/-- FX1E: I + VX, its low 12 bits, VF untouched; under `FX1E_SETS_VF` VF says whether the sum exceeds 0xFFF
(43_index_memory.md, Add to index; D15, D16, logs 3 and 4). -/
def Obligations.AddToIndexMasksTheSum : Prop :=
  ∀ (x : RegIndex) (s : State),
    decodeWord (opX 0xF x 0x1E) = .ok (.addI x) ∧
    (∃ t, exec (.addI x) s = .next t ∧ t.i.toNat = (s.i.toNat + (s.reg x).toNat) % 4096 ∧
      t = { s with i := t.i, report := .ok }) ∧
    ∀ cfg : Config, cfg.fx1eSetsVf = true → cfg.iMask12 = true →
      ∃ t, addIWith cfg x s = .next t ∧ t.i.toNat = (s.i.toNat + (s.reg x).toNat) % 4096 ∧
        t.reg 15 = (if s.i.toNat + (s.reg x).toNat > 0xFFF then 1 else 0) ∧
        (∀ k, k ≠ 15 → t.reg k = s.reg k) ∧ t = { s with i := t.i, v := t.v, report := .ok }

/-- FX29: I points at the glyph of the low nibble of VX (43_index_memory.md, Font glyph address; K2, log 5). -/
def Obligations.FontAddressIsFiveTimesTheDigit : Prop :=
  ∀ (x : RegIndex) (s : State),
    decodeWord (opX 0xF x 0x29) = .ok (.ldF x) ∧
    ∃ t, exec (.ldF x) s = .next t ∧ t.i.toNat = 5 * ((s.reg x).toNat % 16) ∧
      t = { s with i := t.i, report := .ok }

/-- FX33 (43_index_memory.md R183): the decimal digits of VX at I, I + 1 and I + 2, nothing else written; OutOfBounds(0x1000) when
I >= 0xFFE. The premises on I and on memory are the invariant. -/
def Obligations.BcdStoresThreeDigits : Prop :=
  ∀ (x : RegIndex),
    decodeWord (opX 0xF x 0x33) = .ok (.ldB x) ∧
    (∀ s : State, s.mem.wf = true → s.i.toNat + 2 ≤ 0xFFF →
      ∃ t, exec (.ldB x) s = .next t ∧
        (t.byte s.i.toNat).toNat = (s.reg x).toNat / 100 ∧
        (t.byte (s.i.toNat + 1)).toNat = (s.reg x).toNat / 10 % 10 ∧
        (t.byte (s.i.toNat + 2)).toNat = (s.reg x).toNat % 10 ∧
        (∀ a, a < s.i.toNat ∨ s.i.toNat + 2 < a → t.byte a = s.byte a) ∧
        t = { s with mem := t.mem, report := .ok }) ∧
    (∀ s : State, 0xFFE ≤ s.i.toNat → s.i.toNat ≤ 0xFFF →
      exec (.ldB x) s = .fault (.outOfBounds 0x1000))

/-- The three digits FX33 stores reconstruct VX (95_test_vectors.md L1-4). -/
def Obligations.BcdDigitsReconstructVx : Prop :=
  ∀ (x : RegIndex) (s t : State), s.mem.wf = true → exec (.ldB x) s = .next t →
    100 * (t.byte s.i.toNat).toNat + 10 * (t.byte (s.i.toNat + 1)).toNat + (t.byte (s.i.toNat + 2)).toNat
        = (s.reg x).toNat ∧
      (t.byte s.i.toNat).toNat ≤ 9 ∧ (t.byte (s.i.toNat + 1)).toNat ≤ 9 ∧ (t.byte (s.i.toNat + 2)).toNat ≤ 9

/-- FX55: V0 to VX inclusive at I onwards, nothing else written, I advanced by X + 1 and masked; OutOfBounds
when I + X > 0xFFF (43_index_memory.md, Register dump; D16 and D36, log 4). -/
def Obligations.RegisterDumpStoresV0ToVx : Prop :=
  ∀ (x : RegIndex),
    decodeWord (opX 0xF x 0x55) = .ok (.stRegs x) ∧
    (∀ s : State, s.mem.wf = true → s.i.toNat + x.val ≤ 0xFFF →
      ∃ t, exec (.stRegs x) s = .next t ∧
        (∀ k : RegIndex, k ≤ x → t.byte (s.i.toNat + k.val) = s.reg k) ∧
        (∀ a, a < s.i.toNat ∨ s.i.toNat + x.val < a → t.byte a = s.byte a) ∧
        t.i.toNat = (s.i.toNat + x.val + 1) % 4096 ∧
        t = { s with mem := t.mem, i := t.i, report := .ok }) ∧
    (∀ s : State, 0xFFF < s.i.toNat + x.val → s.i.toNat ≤ 0xFFF →
      exec (.stRegs x) s = .fault (.outOfBounds 0x1000))

/-- FX65: V0 to VX inclusive from I onwards, the registers above X and all of memory unchanged, I advanced by
X + 1 and masked; OutOfBounds when I + X > 0xFFF (43_index_memory.md, Register load; D16, log 4). -/
def Obligations.RegisterLoadReadsV0ToVx : Prop :=
  ∀ (x : RegIndex),
    decodeWord (opX 0xF x 0x65) = .ok (.ldRegs x) ∧
    (∀ s : State, s.i.toNat + x.val ≤ 0xFFF →
      ∃ t, exec (.ldRegs x) s = .next t ∧
        (∀ k : RegIndex, k ≤ x → t.reg k = s.byte (s.i.toNat + k.val)) ∧
        (∀ k : RegIndex, x < k → t.reg k = s.reg k) ∧
        t.i.toNat = (s.i.toNat + x.val + 1) % 4096 ∧
        t = { s with v := t.v, i := t.i, report := .ok }) ∧
    (∀ s : State, 0xFFF < s.i.toNat + x.val → s.i.toNat ≤ 0xFFF →
      exec (.ldRegs x) s = .fault (.outOfBounds 0x1000))

/-- A dump, I set back to where it was, and a load restore V0 to VX, whatever the registers held in between
(95_test_vectors.md L1-5, corrected by C11). -/
def Obligations.LoadAfterDumpRestoresTheRegisters : Prop :=
  ∀ (x : RegIndex) (s t : State) (w : Vector Byte 16), s.mem.wf = true → exec (.stRegs x) s = .next t →
    ∃ u, exec (.ldRegs x) { t with i := s.i, v := w } = .next u ∧ u.i = t.i ∧
      (∀ k, k ≤ x → u.reg k = s.reg k) ∧ (∀ k, x < k → u.reg k = w[k])

/-! ### Display (44_display.md) -/

/-- 00E0: every cell false, nothing else changed, VF included (44_display.md, Clear display; D8, log 16). -/
def Obligations.ClearDisplayClearsEveryCell : Prop :=
  decodeWord 0x00E0 = .ok .cls ∧
  ∀ s : State, ∃ t, exec .cls s = .next t ∧ (∀ p, t.display.get p = false) ∧
    t = { s with display := t.display, report := .ok }

/-- Where a sprite pixel goes under each `DRAW_EDGE` (44_display.md, Edge handling and pixel placement; D11, log 1); a pixel that
reaches no cell of the grid is not drawn. -/
def Obligations.PixelPlacementFollowsDrawEdge : Prop :=
  ∀ (edge : DrawEdge) (x0 y0 c r : Nat),
    (∀ p, place edge x0 y0 c r = some p ↔ reaches edge x0 y0 c r p) ∧
    (place edge x0 y0 c r = none ↔ ∀ p, ¬reaches edge x0 y0 c r p)

/-- No two pixels of one sprite reach the same cell (44_display.md, Edge handling and pixel placement). -/
def Obligations.PixelsOfASpriteNeverMeet : Prop :=
  ∀ (edge : DrawEdge) (x0 y0 c r c' r' : Nat) (p : Cell), c < 8 → c' < 8 → r < 15 → r' < 15 →
    place edge x0 y0 c r = some p → place edge x0 y0 c' r' = some p → c = c' ∧ r = r'

/-- DXYN: for every `DRAW_EDGE`, the cells under a placed sprite bit of 1 flip and VF is the collision bit;
`exec` takes `clip`; OutOfBounds when a row's byte lies outside memory (44_display.md, Draw sprite; D11 to D14,
D37, logs 1, 17 and 18). -/
def Obligations.DrawXorsTheSpriteAndReportsCollision : Prop :=
  ∀ (x y : RegIndex) (n : Nat), n ≤ 15 →
    decodeWord (opXYN 0xD x y n) = .ok (.drw x y n) ∧
    (∀ s : State, n = 0 ∨ s.i.toNat + n - 1 ≤ 0xFFF →
      draws .clip s x y n (exec (.drw x y n) s) ∧
      ∀ cfg : Config, draws cfg.drawEdge s x y n (drwWith cfg x y n s)) ∧
    (∀ s : State, 0 < n → 0xFFF < s.i.toNat + n - 1 → s.i.toNat ≤ 0xFFF →
      exec (.drw x y n) s = .fault (.outOfBounds 0x1000))

/-- Drawing the same sprite at the same place twice restores the display, and the second draw sets VF iff some
placed sprite bit of 1 fell on a cell that was 0 before the first (44_display.md, Draw sprite; C4), for every
`DRAW_EDGE`. -/
def Obligations.DrawingTwiceRestoresTheDisplay : Prop :=
  ∀ (cfg : Config) (x y : RegIndex) (n : Nat) (s t : State), n ≤ 15 → x ≠ 15 → y ≠ 15 →
    drwWith cfg x y n s = .next t →
    ∃ u, drwWith cfg x y n t = .next u ∧ u.display = s.display ∧
      (u.reg 15 = 1 ↔ ∃ p, spriteSets cfg.drawEdge s x y n p ∧ s.display.get p = false)

/-! ### Keypad and timers (45_keypad_timers.md) -/

/-- EX9E and EXA1 test the key of VX's low nibble (45_keypad_timers.md, Key index; D18, log 19). -/
def Obligations.KeySkipsTestTheKeyOfVx : Prop :=
  ∀ (x : RegIndex) (s : State) (k : Fin 16), (s.reg x).toNat % 16 = k.val →
    decodeWord (opX 0xE x 0x9E) = .ok (.skp x) ∧ decodeWord (opX 0xE x 0xA1) = .ok (.sknp x) ∧
    skips s (s.keys[k] = true) (exec (.skp x) s) ∧ skips s (s.keys[k] = false) (exec (.sknp x) s)

/-- FX0A: the lowest pressed key goes to VX; with none pressed PC goes back to this instruction and the
outcome is AwaitingKey (45_keypad_timers.md, Wait for key; D17 and D35, log 20). -/
def Obligations.WaitForKeyTakesTheLowestOrWaits : Prop :=
  ∀ (x : RegIndex),
    decodeWord (opX 0xF x 0x0A) = .ok (.ldVxK x) ∧
    (∀ (s : State) (k : Fin 16), s.keys[k] = true → (∀ j : Fin 16, j < k → s.keys[j] = false) →
      writesReg s x k.val (exec (.ldVxK x) s)) ∧
    (∀ s : State, (∀ k : Fin 16, s.keys[k] = false) →
      exec (.ldVxK x) s = .next { s with pc := s.pc - 2, report := .awaitingKey })

/-- While FX0A waits nothing of the core changes but what the host's turn does: the step comes back to the same
PC (45_keypad_timers.md, Wait for key; D17, log 20). -/
def Obligations.WaitingForAKeyChangesNothing : Prop :=
  ∀ (s : State) (x : RegIndex), s.pc.toNat ≤ 0xFFE →
    decodeBytes [s.byte s.pc.toNat, s.byte (s.pc.toNat + 1)] = .ok (.ldVxK x, []) →
    (∀ k : Fin 16, s.hostTurn.keys[k] = false) →
    step s = .next { s.beginStep with report := .awaitingKey }

/-- FX07: VX becomes DT (45_keypad_timers.md R223). -/
def Obligations.ReadDelayTimerCopiesDt : Prop :=
  ∀ (x : RegIndex) (s : State),
    decodeWord (opX 0xF x 0x07) = .ok (.ldVxDt x) ∧ writesReg s x s.dt.toNat (exec (.ldVxDt x) s)

/-- FX15 and FX18: DT, or ST, becomes VX (45_keypad_timers.md R225, R226). -/
def Obligations.TimerWritesCopyVx : Prop :=
  ∀ (x : RegIndex) (s : State),
    decodeWord (opX 0xF x 0x15) = .ok (.ldDtVx x) ∧ decodeWord (opX 0xF x 0x18) = .ok (.ldStVx x) ∧
    exec (.ldDtVx x) s = .next { s with dt := s.reg x, report := .ok } ∧
    exec (.ldStVx x) s = .next { s with st := s.reg x, report := .ok }

/-! ### Whole-machine rules -/

/-- The errors of instructions, all of them: which instruction raises which error, and exactly when
(60_exceptions.md, the table of outcomes and "There is no other synchronous exception"; the address recorded
is the lowest out of range, D4, log 9). -/
def Obligations.InstructionsRaiseExactlyTheListedErrors : Prop :=
  ∀ (i : Instr) (s : State) (f : Fault), exec i s = .fault f ↔
    (i = .ret ∧ s.sp = 0 ∧ f = .stackUnderflow) ∨
    ((∃ nnn, i = .call nnn) ∧ s.sp = 16 ∧ f = .stackOverflow) ∨
    (∃ len, 0 < len ∧ 0xFFF < s.i.toNat + len - 1 ∧
      ((∃ x, i = .ldB x ∧ len = 3) ∨ (∃ x : RegIndex, i = .stRegs x ∧ len = x.val + 1) ∨
        (∃ x : RegIndex, i = .ldRegs x ∧ len = x.val + 1) ∨ (∃ x y, i = .drw x y len)) ∧
      f = .outOfBounds (max s.i.toNat 0x1000))

/-- No instruction and no step is refused: every instruction has its meaning, and every opcode is an
instruction or a decode-miss. -/
def Obligations.NothingIsRefused : Prop :=
  (∀ (i : Instr) (s : State) (r : Refusal), exec i s ≠ .refused r) ∧
  ∀ (s : State) (r : Refusal), step s ≠ .refused r

/-- Only the instructions the spec names write each part of the state: the registers (10_state.md R21, R22), PC
(R24), I, the call stack, the timers and the display (R23, R25 to R29), memory (20_memory.md, Access widths,
atomicity and side effects). Of the model's own fields, the inputs and the host's schedule are never written
and the outcome is `Ok` unless the instruction is `FX0A` (logs 11 and 12). That VF is no flag of the logic
operations, `FX1E` and `00E0` is D8 and D15 (logs 3 and 16); that `FX0A` rewinds PC is D17 (log 20). -/
def Obligations.OnlyNamedInstructionsWriteEachPart : Prop :=
  ∀ (i : Instr) (s t : State), exec i s = .next t →
    (∀ k, ¬mayWriteReg i k → t.reg k = s.reg k) ∧
    (¬mayChangePc i → t.pc = s.pc) ∧
    ((i ≠ .cls ∧ ∀ x y n, i ≠ .drw x y n) → t.display = s.display) ∧
    ((∀ x, i ≠ .ldB x ∧ i ≠ .stRegs x) → t.mem = s.mem) ∧
    ((∀ x, i ≠ .ldDtVx x) → t.dt = s.dt) ∧ ((∀ x, i ≠ .ldStVx x) → t.st = s.st) ∧
    ((∀ nnn, i ≠ .call nnn) → t.stack = s.stack) ∧
    ((i ≠ .ret ∧ ∀ nnn, i ≠ .call nnn) → t.sp = s.sp) ∧
    (((∀ nnn, i ≠ .ldI nnn) ∧ ∀ x, i ≠ .addI x ∧ i ≠ .ldF x ∧ i ≠ .stRegs x ∧ i ≠ .ldRegs x) → t.i = s.i) ∧
    ((∀ x, i ≠ .ldVxK x) → t.report = .ok) ∧
    t.keys = s.keys ∧ t.rnd = s.rnd ∧ t.schedule = s.schedule ∧ t.turn = s.turn

/-- VF changes only through the instructions that write it as a flag, or as an ordinary destination register
(10_state.md, the paragraph on VF; D8, D15, logs 3 and 16). -/
def Obligations.VfChangesOnlyAsFlagOrDestination : Prop :=
  ∀ (i : Instr) (s t : State), exec i s = .next t → t.reg 15 ≠ s.reg 15 →
    (∃ x y, i = .addReg x y ∨ i = .subReg x y ∨ i = .subnReg x y ∨ i = .shr x y ∨ i = .shl x y) ∨
    (∃ x y n, i = .drw x y n) ∨
    (∃ nn, i = .ldImm 15 nn ∨ i = .addImm 15 nn ∨ i = .rnd 15 nn) ∨
    (∃ y, i = .ldReg 15 y ∨ i = .orReg 15 y ∨ i = .andReg 15 y ∨ i = .xorReg 15 y) ∨
    i = .ldVxDt 15 ∨ i = .ldVxK 15 ∨ i = .ldRegs 15

/-- The only instructions that read an input of the step are CXNN (`rnd`) and EX9E, EXA1, FX0A (`K`) (40_cycle.md R124): for
every other instruction the result does not depend on the inputs. -/
def Obligations.OnlyFourInstructionsReadTheInputs : Prop :=
  ∀ (i : Instr) (s : State) (keys : Vector Bool 16) (rnd : Byte),
    ((∀ x nn, i ≠ .rnd x nn) → (∀ x, i ≠ .skp x ∧ i ≠ .sknp x ∧ i ≠ .ldVxK x) →
      sameResult (fun t u => u = { t with keys := keys, rnd := rnd })
        (exec i s) (exec i { s with keys := keys, rnd := rnd })) ∧
    ((∀ x nn, i ≠ .rnd x nn) →
      sameResult (fun t u => u = { t with rnd := rnd }) (exec i s) (exec i { s with rnd := rnd })) ∧
    ((∀ x, i ≠ .skp x ∧ i ≠ .sknp x ∧ i ≠ .ldVxK x) →
      sameResult (fun t u => u = { t with keys := keys }) (exec i s) (exec i { s with keys := keys }))

/-- Stack entries at or above SP are never read: states that differ only there have results that differ only
there (10_state.md, Call stack; D24, log 21). -/
def Obligations.StaleStackEntriesAreNeverRead : Prop :=
  ∀ s t : State, sameButStale s t → sameResult sameButStale (step s) (step t)

/-- An error depends on no input and recurs: whatever the host does before the next step, a step from the same
core state raises the same error (40_cycle.md, Errors). -/
def Obligations.AnErrorRecursWhateverTheHostDoes : Prop :=
  ∀ (s t : State) (f : Fault), step s = .fault f →
    t = { s with dt := t.dt, st := t.st, keys := t.keys, rnd := t.rnd, report := t.report,
                 schedule := t.schedule, turn := t.turn } →
    step t = .fault f
end

