-- ==== Sys2Proof/Laws/Decode.lean ====
section
/-! SUPPORT. The fields of an opcode written in each format of 30_encoding.md R91, and what masking an opcode
with a row's mask gives. -/

namespace Sys2Proof

/-! ### Format A -/

theorem fieldN1_formatA {c : Nat} (hc : c < 16) (nnn : Addr) : fieldN1 (formatA c nnn) = c := by
  have := nnn.isLt
  simp only [fieldN1, formatA, BitVec.toNat_ofNat]
  omega

theorem fieldNNN_formatA {c : Nat} (nnn : Addr) : fieldNNN (formatA c nnn) = nnn := by
  have := nnn.isLt
  apply BitVec.eq_of_toNat_eq
  simp only [fieldNNN, formatA, BitVec.toNat_ofNat]
  omega

/-! ### Format XNN -/

theorem fieldN1_formatXNN {c : Nat} (hc : c < 16) (x : RegIndex) (nn : Byte) :
    fieldN1 (formatXNN c x nn) = c := by
  have := nn.isLt
  have := x.isLt
  simp only [fieldN1, formatXNN, BitVec.toNat_ofNat]
  omega

theorem fieldX_formatXNN {c : Nat} (x : RegIndex) (nn : Byte) :
    fieldX (formatXNN c x nn) = x := by
  have := nn.isLt
  have := x.isLt
  apply Fin.ext
  simp only [fieldX, formatXNN, BitVec.toNat_ofNat, Fin.val_ofNat]
  omega

theorem fieldNN_formatXNN {c : Nat} (x : RegIndex) (nn : Byte) :
    fieldNN (formatXNN c x nn) = nn := by
  have := nn.isLt
  have := x.isLt
  apply BitVec.eq_of_toNat_eq
  simp only [fieldNN, formatXNN, BitVec.toNat_ofNat]
  omega

/-! ### Formats XY and XYN -/

theorem fieldN1_formatXY {c : Nat} (hc : c < 16) (x y : RegIndex) (k : Nat) :
    fieldN1 (formatXY c x y k) = c := by
  have := x.isLt
  have := y.isLt
  simp only [fieldN1, formatXY, BitVec.toNat_ofNat]
  omega

theorem fieldX_formatXY {c : Nat} (x y : RegIndex) (k : Nat) :
    fieldX (formatXY c x y k) = x := by
  have := x.isLt
  have := y.isLt
  apply Fin.ext
  simp only [fieldX, formatXY, BitVec.toNat_ofNat, Fin.val_ofNat]
  omega

theorem fieldY_formatXY {c : Nat} (x y : RegIndex) (k : Nat) :
    fieldY (formatXY c x y k) = y := by
  have := x.isLt
  have := y.isLt
  apply Fin.ext
  simp only [fieldY, formatXY, BitVec.toNat_ofNat, Fin.val_ofNat]
  omega

theorem fieldN_formatXY {c : Nat} (x y : RegIndex) (k : Nat) :
    fieldN (formatXY c x y k) = k % 16 := by
  have := x.isLt
  have := y.isLt
  simp only [fieldN, formatXY, BitVec.toNat_ofNat]
  omega

/-! ### Format X -/

theorem fieldN1_formatX {c sub : Nat} (hc : c < 16) (hs : sub < 256) (x : RegIndex) :
    fieldN1 (formatX c x sub) = c := by
  have := x.isLt
  simp only [fieldN1, formatX, BitVec.toNat_ofNat]
  omega

theorem fieldX_formatX {c sub : Nat} (hs : sub < 256) (x : RegIndex) :
    fieldX (formatX c x sub) = x := by
  have := x.isLt
  apply Fin.ext
  simp only [fieldX, formatX, BitVec.toNat_ofNat, Fin.val_ofNat]
  omega

theorem fieldSub_formatX {c sub : Nat} (hs : sub < 256) (x : RegIndex) :
    fieldSub (formatX c x sub) = sub := by
  have := x.isLt
  simp only [fieldSub, formatX, BitVec.toNat_ofNat]
  omega

/-! ### Masks -/

/-- The class nibble, kept in place. -/
theorem and_classMask (op : Word) : op &&& 0xF000 = BitVec.ofNat 16 (fieldN1 op * 4096) := by
  have h : op &&& (0xF000 : Word) = (op >>> 12) <<< 12 := by
    apply BitVec.eq_of_getLsbD_eq
    intro i hi
    interval_cases i <;> simp
  rw [h]
  apply BitVec.eq_of_toNat_eq
  have := op.isLt
  simp only [fieldN1, BitVec.toNat_shiftLeft, BitVec.toNat_ushiftRight, BitVec.toNat_ofNat,
    Nat.shiftLeft_eq, Nat.shiftRight_eq_div_pow]
  omega

/-- The low nibble. -/
theorem and_nibbleMask (op : Word) : op &&& 0x000F = BitVec.ofNat 16 (fieldN op) := by
  apply BitVec.eq_of_toNat_eq
  have h : op.toNat &&& (15 : Word).toNat = op.toNat % 16 := Nat.and_two_pow_sub_one_eq_mod op.toNat 4
  simp only [fieldN, BitVec.toNat_and, BitVec.toNat_ofNat]
  omega

/-- The low byte. -/
theorem and_byteMask (op : Word) : op &&& 0x00FF = BitVec.ofNat 16 (fieldSub op) := by
  apply BitVec.eq_of_toNat_eq
  have h : op.toNat &&& (255 : Word).toNat = op.toNat % 256 := Nat.and_two_pow_sub_one_eq_mod op.toNat 8
  simp only [fieldSub, BitVec.toNat_and, BitVec.toNat_ofNat]
  omega

/-- The mask of formats XY: class and low nibble. -/
theorem and_xyMask (op : Word) :
    op &&& 0xF00F = BitVec.ofNat 16 (fieldN1 op * 4096) ||| BitVec.ofNat 16 (fieldN op) := by
  rw [← and_classMask, ← and_nibbleMask, ← BitVec.and_or_distrib_left]
  rfl

/-- The mask of format X: class and low byte. -/
theorem and_xMask (op : Word) :
    op &&& 0xF0FF = BitVec.ofNat 16 (fieldN1 op * 4096) ||| BitVec.ofNat 16 (fieldSub op) := by
  rw [← and_classMask, ← and_byteMask, ← BitVec.and_or_distrib_left]
  rfl

/-! ### Bytes -/

/-- Joining the two bytes of an opcode in memory order gives the opcode back. -/
theorem joinBytes_opcodeBytes (op : Word) :
    joinBytes (BitVec.ofNat 8 (op.toNat / 256)) (BitVec.ofNat 8 op.toNat) = op := by
  apply BitVec.eq_of_toNat_eq
  have := op.isLt
  simp only [joinBytes, BitVec.toNat_append, BitVec.toNat_ofNat, Nat.shiftLeft_eq]
  rw [← Nat.shiftLeft_eq, ← Nat.shiftLeft_add_eq_or_of_lt (by omega), Nat.shiftLeft_eq]
  omega

theorem decodeBytes_opcodeBytes (op : Word) (rest : List Byte) :
    decodeBytes (opcodeBytes op ++ rest) =
      match decodeWord op with
      | .ok i => .ok (i, rest)
      | .error e => .error e := by
  have h : decodeBytes (opcodeBytes op ++ rest) =
      match decodeWord (joinBytes (BitVec.ofNat 8 (op.toNat / 256)) (BitVec.ofNat 8 op.toNat)) with
      | .ok i => .ok (i, rest)
      | .error e => .error e := rfl
  rw [h, joinBytes_opcodeBytes]

/-! ### Putting the fields of an opcode together again -/

theorem formatA_fields (op : Word) {c : Nat} (h : fieldN1 op = c) : formatA c (fieldNNN op) = op := by
  apply BitVec.eq_of_toNat_eq
  have := op.isLt
  simp only [formatA, fieldNNN, fieldN1, BitVec.toNat_ofNat] at *
  omega

theorem formatXNN_fields (op : Word) {c : Nat} (h : fieldN1 op = c) :
    formatXNN c (fieldX op) (fieldNN op) = op := by
  apply BitVec.eq_of_toNat_eq
  have := op.isLt
  simp only [formatXNN, fieldX, fieldNN, fieldN1, BitVec.toNat_ofNat, Fin.val_ofNat] at *
  omega

theorem formatXY_fields (op : Word) {c k : Nat} (h : fieldN1 op = c) (hk : fieldN op = k) :
    formatXY c (fieldX op) (fieldY op) k = op := by
  apply BitVec.eq_of_toNat_eq
  have := op.isLt
  simp only [formatXY, fieldX, fieldY, fieldN, fieldN1, BitVec.toNat_ofNat, Fin.val_ofNat] at *
  omega

theorem formatX_fields (op : Word) {c k : Nat} (h : fieldN1 op = c) (hk : fieldSub op = k) :
    formatX c (fieldX op) k = op := by
  apply BitVec.eq_of_toNat_eq
  have := op.isLt
  simp only [formatX, fieldX, fieldSub, fieldN1, BitVec.toNat_ofNat, Fin.val_ofNat] at *
  omega

end Sys2Proof
end

