-- ==== Sys2Proof/Laws/Display.lean ====
section
/-! SUPPORT. Laws of the display: read after write of a cell, the clear display, and where a sprite pixel
can go. -/

namespace Sys2Proof.Machine

@[simp] theorem Display.get_clear (p : Cell) : Display.clear.get p = false := by
  simp [Display.get, Display.clear]

/-- Read after write of one cell. -/
theorem Display.get_set (d : Display) (p q : Cell) (b : Bool) :
    (d.set p b).get q = if q = p then b else d.get q := by
  obtain ⟨px, py⟩ := p
  obtain ⟨qx, qy⟩ := q
  simp only [Display.get, Display.set, Cell.mk.injEq, Fin.getElem_fin, Vector.getElem_set, Fin.ext_iff]
  by_cases hy : py.val = qy.val
  · by_cases hx : px.val = qx.val
    · simp [hx, hy]
    · simp [hy, hx, Ne.symm hx]
  · simp [hy, Ne.symm hy]

@[simp] theorem Display.get_set_self (d : Display) (p : Cell) (b : Bool) : (d.set p b).get p = b := by
  simp [Display.get_set]

/-- Displays that agree in every cell are equal. -/
theorem Display.ext_get {d e : Display} (h : ∀ p, d.get p = e.get p) : d = e := by
  apply Vector.ext
  intro y hy
  apply Vector.ext
  intro x hx
  exact h ⟨⟨x, hx⟩, ⟨y, hy⟩⟩

/-- Which cell, if any, `cellAt` names. -/
theorem cellAt_eq_some {x y : Nat} {p : Cell} : cellAt x y = some p ↔ p.x.val = x ∧ p.y.val = y := by
  obtain ⟨⟨px, hx⟩, ⟨py, hy⟩⟩ := p
  unfold cellAt
  split
  · simp [eq_comm]
  · simp only [reduceCtorEq, false_iff]
    omega

@[simp] theorem Canvas.flip_display (k : Canvas) (p : Cell) :
    (k.flip p).display = k.display.set p (!k.display.get p) := rfl

@[simp] theorem Canvas.flip_collide (k : Canvas) (p : Cell) :
    (k.flip p).collide = (k.collide || k.display.get p) := rfl

@[simp] theorem drawRows_nil (edge : DrawEdge) (x0 y0 r : Nat) (k : Canvas) :
    drawRows edge x0 y0 r [] k = k := rfl

theorem drawRows_cons (edge : DrawEdge) (x0 y0 r : Nat) (row : Byte) (rows : List Byte) (k : Canvas) :
    drawRows edge x0 y0 r (row :: rows) k = drawRows edge x0 y0 (r + 1) rows (drawRow edge x0 y0 r row k) := rfl

end Sys2Proof.Machine
end

