-- ==== Sys2Proof/Laws/Memory.lean ====
section
/-! SUPPORT. Laws of memory: read after write, read after store, and that every operation keeps the
canonical form. -/

namespace Sys2Proof.Machine

@[simp] theorem Memory.read_nil (a : Nat) : Memory.read [] a = resetByte a := rfl

theorem Memory.read_cons (a a' : Nat) (b : Byte) (m : Memory) :
    Memory.read ((a', b) :: m) a = if a = a' then b else m.read a := rfl

/-- Weakening the lower bound of the canonical form. -/
theorem Memory.wfFrom_mono {low low' : Nat} (h : low' ≤ low) :
    ∀ {m : Memory}, m.wfFrom low = true → m.wfFrom low' = true
  | [], _ => rfl
  | (a, b) :: m, hm => by
    simp only [Memory.wfFrom, Bool.and_eq_true, decide_eq_true_eq] at hm ⊢
    exact ⟨⟨⟨by omega, hm.1.1.2⟩, hm.1.2⟩, hm.2⟩

/-- Below every listed cell an address reads as its reset content. -/
theorem Memory.read_of_lt {low a : Nat} (ha : a < low) :
    ∀ {m : Memory}, m.wfFrom low = true → m.read a = resetByte a
  | [], _ => rfl
  | (a', b) :: m, hm => by
    simp only [Memory.wfFrom, Bool.and_eq_true, decide_eq_true_eq] at hm
    rw [Memory.read_cons, if_neg (by omega)]
    exact Memory.read_of_lt (low := a' + 1) (by omega) hm.2

/-- Above memory an address reads as its reset content (no access reaches it, R64). -/
theorem Memory.read_of_size_le {low a : Nat} (ha : memorySize ≤ a) :
    ∀ {m : Memory}, m.wfFrom low = true → m.read a = resetByte a
  | [], _ => rfl
  | (a', b) :: m, hm => by
    simp only [Memory.wfFrom, Bool.and_eq_true, decide_eq_true_eq] at hm
    rw [Memory.read_cons, if_neg (by omega)]
    exact Memory.read_of_size_le ha hm.2

theorem Memory.read_cellsFor_append_self (a : Nat) (b : Byte) {m : Memory}
    (hm : m.read a = resetByte a) : Memory.read (cellsFor a b ++ m) a = b := by
  unfold cellsFor
  split
  · next h => simpa [h] using hm
  · simp [Memory.read_cons]

theorem Memory.read_cellsFor_append_ne {a c : Nat} (b : Byte) (m : Memory) (h : c ≠ a) :
    Memory.read (cellsFor a b ++ m) c = m.read c := by
  unfold cellsFor
  split
  · rfl
  · simp [Memory.read_cons, h]

theorem Memory.wfFrom_cellsFor_append {low a : Nat} (b : Byte) {m : Memory} (hl : low ≤ a)
    (ha : a < memorySize) (hm : m.wfFrom (a + 1) = true) :
    Memory.wfFrom low (cellsFor a b ++ m) = true := by
  unfold cellsFor
  split
  · exact Memory.wfFrom_mono (by omega) hm
  · next h => simp [Memory.wfFrom, hl, ha, h, hm]

/-- Everything an insertion does to a memory in canonical form: it stays in canonical form, reads back
what was put and changes no other address. -/
theorem Memory.insert_spec {a : Nat} (b : Byte) (ha : a < memorySize) :
    ∀ {low : Nat} {m : Memory}, low ≤ a → m.wfFrom low = true →
      (m.insert a b).wfFrom low = true ∧ (m.insert a b).read a = b ∧
        ∀ c, c ≠ a → (m.insert a b).read c = m.read c
  | low, [], hl, _ => by
    refine ⟨?_, ?_, fun c hc => ?_⟩
    · simpa [Memory.insert] using Memory.wfFrom_cellsFor_append b (m := []) hl ha rfl
    · simpa [Memory.insert] using Memory.read_cellsFor_append_self a b (m := []) rfl
    · simpa [Memory.insert] using Memory.read_cellsFor_append_ne b [] hc
  | low, (a', b') :: m, hl, hm => by
    have hm' := hm
    simp only [Memory.wfFrom, Bool.and_eq_true, decide_eq_true_eq] at hm'
    obtain ⟨⟨⟨h1, h2⟩, h3⟩, h4⟩ := hm'
    simp only [Memory.insert]
    split
    · next hlt =>
      refine ⟨?_, ?_, fun c hc => Memory.read_cellsFor_append_ne b _ hc⟩
      · refine Memory.wfFrom_cellsFor_append b hl ha ?_
        simp only [Memory.wfFrom, Bool.and_eq_true, decide_eq_true_eq]
        exact ⟨⟨⟨by omega, h2⟩, h3⟩, h4⟩
      · refine Memory.read_cellsFor_append_self a b ?_
        rw [Memory.read_cons, if_neg (by omega)]
        exact Memory.read_of_lt (by omega) h4
    · split
      · next heq =>
        subst heq
        refine ⟨Memory.wfFrom_cellsFor_append b hl ha h4, ?_, fun c hc => ?_⟩
        · exact Memory.read_cellsFor_append_self a b (Memory.read_of_lt (by omega) h4)
        · rw [Memory.read_cellsFor_append_ne b _ hc, Memory.read_cons, if_neg hc]
      · next hne =>
        have ih := Memory.insert_spec b ha (low := a' + 1) (by omega) h4
        refine ⟨?_, ?_, fun c hc => ?_⟩
        · simp [Memory.wfFrom, h1, h2, h3, ih.1]
        · rw [Memory.read_cons, if_neg hne, ih.2.1]
        · rw [Memory.read_cons, Memory.read_cons, ih.2.2 c hc]

theorem Memory.write_wf {m : Memory} (a : Nat) (b : Byte) (hm : m.wf = true) : (m.write a b).wf = true := by
  unfold Memory.write
  split
  · next h => exact (Memory.insert_spec b h (Nat.zero_le a) hm).1
  · exact hm

/-- Read after write, at every address, for a memory in canonical form. -/
theorem Memory.read_write {m : Memory} {a : Nat} (b : Byte) (c : Nat) (ha : a < memorySize)
    (hm : m.wf = true) : (m.write a b).read c = if c = a then b else m.read c := by
  rw [Memory.write, if_pos ha]
  have h := Memory.insert_spec b ha (Nat.zero_le a) hm
  split
  · next hc => rw [hc, h.2.1]
  · next hc => exact h.2.2 c hc

theorem Memory.store_wf : ∀ (bytes : List Byte) {m : Memory} (a : Nat), m.wf = true →
    (m.store a bytes).wf = true
  | [], _, _, hm => hm
  | b :: rest, _, a, hm => Memory.store_wf rest (a + 1) (Memory.write_wf a b hm)

/-- Read after store, at every address, for a memory in canonical form. -/
theorem Memory.read_store : ∀ (bytes : List Byte) {m : Memory} (a c : Nat),
    a + bytes.length ≤ memorySize → m.wf = true →
    (m.store a bytes).read c =
      if h : a ≤ c ∧ c < a + bytes.length then bytes[c - a]'(by omega) else m.read c
  | [], _, a, c, _, _ => by
    rw [dif_neg (by simp)]
    rfl
  | b :: rest, m, a, c, hlen, hm => by
    rw [List.length_cons] at hlen
    have ih := Memory.read_store rest (a + 1) c (by omega) (Memory.write_wf a b hm)
    rw [Memory.store, ih, Memory.read_write b c (by omega) hm]
    by_cases h1 : a + 1 ≤ c ∧ c < a + 1 + rest.length
    · rw [dif_pos h1, dif_pos (by rw [List.length_cons]; omega)]
      have : c - a = c - (a + 1) + 1 := by omega
      simp [this]
    · rw [dif_neg h1]
      by_cases h2 : c = a
      · subst h2
        simp
      · rw [if_neg h2, dif_neg (by rw [List.length_cons]; omega)]

theorem Memory.load_length (m : Memory) : ∀ (n a : Nat), (m.load a n).length = n
  | 0, _ => rfl
  | n + 1, a => by simp [Memory.load, Memory.load_length m n (a + 1)]

theorem Memory.load_getElem (m : Memory) : ∀ (n a k : Nat) (h : k < (m.load a n).length),
    (m.load a n)[k] = m.read (a + k)
  | 0, a, k, h => by simp [Memory.load] at h
  | n + 1, a, 0, h => by simp [Memory.load]
  | n + 1, a, k + 1, h => by
    have := Memory.load_getElem m n (a + 1) k (by simpa [Memory.load] using h)
    simp only [Memory.load, List.getElem_cons_succ, this]
    congr 1
    omega

theorem inBounds_iff (base len : Nat) : inBounds base len = true ↔ len = 0 ∨ base + len ≤ 4096 := by
  simp only [inBounds, Bool.or_eq_true, beq_iff_eq, decide_eq_true_eq]

theorem inBounds_eq_false_iff (base len : Nat) : inBounds base len = false ↔ len ≠ 0 ∧ 4096 < base + len := by
  rw [← Bool.not_eq_true, inBounds_iff]
  omega

/-- With I a 12-bit value the lowest address out of range is 0x1000 (43_index_memory.md R183 to R185). -/
theorem firstOutOfBounds_of_le {base : Nat} (h : base ≤ 0xFFF) : firstOutOfBounds base = 0x1000 := by
  simp [firstOutOfBounds, memorySize]
  omega

end Sys2Proof.Machine
end

