-- ==== Sys2Proof/Laws/State.lean ====
section
/-! SUPPORT. One lemma per field per update of the state, so that no proof unfolds a record update. -/

namespace Sys2Proof.Machine

variable (s : State)

/-! ### setReg -/

@[simp] theorem State.setReg_v (x : RegIndex) (b : Byte) : (s.setReg x b).v = s.v.set x b := rfl
@[simp] theorem State.setReg_i (x : RegIndex) (b : Byte) : (s.setReg x b).i = s.i := rfl
@[simp] theorem State.setReg_pc (x : RegIndex) (b : Byte) : (s.setReg x b).pc = s.pc := rfl
@[simp] theorem State.setReg_stack (x : RegIndex) (b : Byte) : (s.setReg x b).stack = s.stack := rfl
@[simp] theorem State.setReg_sp (x : RegIndex) (b : Byte) : (s.setReg x b).sp = s.sp := rfl
@[simp] theorem State.setReg_dt (x : RegIndex) (b : Byte) : (s.setReg x b).dt = s.dt := rfl
@[simp] theorem State.setReg_st (x : RegIndex) (b : Byte) : (s.setReg x b).st = s.st := rfl
@[simp] theorem State.setReg_mem (x : RegIndex) (b : Byte) : (s.setReg x b).mem = s.mem := rfl
@[simp] theorem State.setReg_display (x : RegIndex) (b : Byte) : (s.setReg x b).display = s.display := rfl
@[simp] theorem State.setReg_keys (x : RegIndex) (b : Byte) : (s.setReg x b).keys = s.keys := rfl
@[simp] theorem State.setReg_rnd (x : RegIndex) (b : Byte) : (s.setReg x b).rnd = s.rnd := rfl
@[simp] theorem State.setReg_report (x : RegIndex) (b : Byte) : (s.setReg x b).report = s.report := rfl
@[simp] theorem State.setReg_schedule (x : RegIndex) (b : Byte) : (s.setReg x b).schedule = s.schedule := rfl
@[simp] theorem State.setReg_turn (x : RegIndex) (b : Byte) : (s.setReg x b).turn = s.turn := rfl

/-! ### setRegThenFlag -/

@[simp] theorem State.setRegThenFlag_v (x : RegIndex) (b flag : Byte) : (s.setRegThenFlag x b flag).v = (s.v.set x b).set vf flag := rfl
@[simp] theorem State.setRegThenFlag_i (x : RegIndex) (b flag : Byte) : (s.setRegThenFlag x b flag).i = s.i := rfl
@[simp] theorem State.setRegThenFlag_pc (x : RegIndex) (b flag : Byte) : (s.setRegThenFlag x b flag).pc = s.pc := rfl
@[simp] theorem State.setRegThenFlag_stack (x : RegIndex) (b flag : Byte) : (s.setRegThenFlag x b flag).stack = s.stack := rfl
@[simp] theorem State.setRegThenFlag_sp (x : RegIndex) (b flag : Byte) : (s.setRegThenFlag x b flag).sp = s.sp := rfl
@[simp] theorem State.setRegThenFlag_dt (x : RegIndex) (b flag : Byte) : (s.setRegThenFlag x b flag).dt = s.dt := rfl
@[simp] theorem State.setRegThenFlag_st (x : RegIndex) (b flag : Byte) : (s.setRegThenFlag x b flag).st = s.st := rfl
@[simp] theorem State.setRegThenFlag_mem (x : RegIndex) (b flag : Byte) : (s.setRegThenFlag x b flag).mem = s.mem := rfl
@[simp] theorem State.setRegThenFlag_display (x : RegIndex) (b flag : Byte) : (s.setRegThenFlag x b flag).display = s.display := rfl
@[simp] theorem State.setRegThenFlag_keys (x : RegIndex) (b flag : Byte) : (s.setRegThenFlag x b flag).keys = s.keys := rfl
@[simp] theorem State.setRegThenFlag_rnd (x : RegIndex) (b flag : Byte) : (s.setRegThenFlag x b flag).rnd = s.rnd := rfl
@[simp] theorem State.setRegThenFlag_report (x : RegIndex) (b flag : Byte) : (s.setRegThenFlag x b flag).report = s.report := rfl
@[simp] theorem State.setRegThenFlag_schedule (x : RegIndex) (b flag : Byte) : (s.setRegThenFlag x b flag).schedule = s.schedule := rfl
@[simp] theorem State.setRegThenFlag_turn (x : RegIndex) (b flag : Byte) : (s.setRegThenFlag x b flag).turn = s.turn := rfl

/-! ### setIndex -/

@[simp] theorem State.setIndex_v (cfg : Config) (n : Nat) : (s.setIndex cfg n).v = s.v := rfl
@[simp] theorem State.setIndex_i (cfg : Config) (n : Nat) : (s.setIndex cfg n).i = indexValue cfg n := rfl
@[simp] theorem State.setIndex_pc (cfg : Config) (n : Nat) : (s.setIndex cfg n).pc = s.pc := rfl
@[simp] theorem State.setIndex_stack (cfg : Config) (n : Nat) : (s.setIndex cfg n).stack = s.stack := rfl
@[simp] theorem State.setIndex_sp (cfg : Config) (n : Nat) : (s.setIndex cfg n).sp = s.sp := rfl
@[simp] theorem State.setIndex_dt (cfg : Config) (n : Nat) : (s.setIndex cfg n).dt = s.dt := rfl
@[simp] theorem State.setIndex_st (cfg : Config) (n : Nat) : (s.setIndex cfg n).st = s.st := rfl
@[simp] theorem State.setIndex_mem (cfg : Config) (n : Nat) : (s.setIndex cfg n).mem = s.mem := rfl
@[simp] theorem State.setIndex_display (cfg : Config) (n : Nat) : (s.setIndex cfg n).display = s.display := rfl
@[simp] theorem State.setIndex_keys (cfg : Config) (n : Nat) : (s.setIndex cfg n).keys = s.keys := rfl
@[simp] theorem State.setIndex_rnd (cfg : Config) (n : Nat) : (s.setIndex cfg n).rnd = s.rnd := rfl
@[simp] theorem State.setIndex_report (cfg : Config) (n : Nat) : (s.setIndex cfg n).report = s.report := rfl
@[simp] theorem State.setIndex_schedule (cfg : Config) (n : Nat) : (s.setIndex cfg n).schedule = s.schedule := rfl
@[simp] theorem State.setIndex_turn (cfg : Config) (n : Nat) : (s.setIndex cfg n).turn = s.turn := rfl

/-! ### setPc -/

@[simp] theorem State.setPc_v (w : Word) : (s.setPc w).v = s.v := rfl
@[simp] theorem State.setPc_i (w : Word) : (s.setPc w).i = s.i := rfl
@[simp] theorem State.setPc_pc (w : Word) : (s.setPc w).pc = w := rfl
@[simp] theorem State.setPc_stack (w : Word) : (s.setPc w).stack = s.stack := rfl
@[simp] theorem State.setPc_sp (w : Word) : (s.setPc w).sp = s.sp := rfl
@[simp] theorem State.setPc_dt (w : Word) : (s.setPc w).dt = s.dt := rfl
@[simp] theorem State.setPc_st (w : Word) : (s.setPc w).st = s.st := rfl
@[simp] theorem State.setPc_mem (w : Word) : (s.setPc w).mem = s.mem := rfl
@[simp] theorem State.setPc_display (w : Word) : (s.setPc w).display = s.display := rfl
@[simp] theorem State.setPc_keys (w : Word) : (s.setPc w).keys = s.keys := rfl
@[simp] theorem State.setPc_rnd (w : Word) : (s.setPc w).rnd = s.rnd := rfl
@[simp] theorem State.setPc_report (w : Word) : (s.setPc w).report = s.report := rfl
@[simp] theorem State.setPc_schedule (w : Word) : (s.setPc w).schedule = s.schedule := rfl
@[simp] theorem State.setPc_turn (w : Word) : (s.setPc w).turn = s.turn := rfl

/-! ### setDt -/

@[simp] theorem State.setDt_v (b : Byte) : (s.setDt b).v = s.v := rfl
@[simp] theorem State.setDt_i (b : Byte) : (s.setDt b).i = s.i := rfl
@[simp] theorem State.setDt_pc (b : Byte) : (s.setDt b).pc = s.pc := rfl
@[simp] theorem State.setDt_stack (b : Byte) : (s.setDt b).stack = s.stack := rfl
@[simp] theorem State.setDt_sp (b : Byte) : (s.setDt b).sp = s.sp := rfl
@[simp] theorem State.setDt_dt (b : Byte) : (s.setDt b).dt = b := rfl
@[simp] theorem State.setDt_st (b : Byte) : (s.setDt b).st = s.st := rfl
@[simp] theorem State.setDt_mem (b : Byte) : (s.setDt b).mem = s.mem := rfl
@[simp] theorem State.setDt_display (b : Byte) : (s.setDt b).display = s.display := rfl
@[simp] theorem State.setDt_keys (b : Byte) : (s.setDt b).keys = s.keys := rfl
@[simp] theorem State.setDt_rnd (b : Byte) : (s.setDt b).rnd = s.rnd := rfl
@[simp] theorem State.setDt_report (b : Byte) : (s.setDt b).report = s.report := rfl
@[simp] theorem State.setDt_schedule (b : Byte) : (s.setDt b).schedule = s.schedule := rfl
@[simp] theorem State.setDt_turn (b : Byte) : (s.setDt b).turn = s.turn := rfl

/-! ### setSt -/

@[simp] theorem State.setSt_v (b : Byte) : (s.setSt b).v = s.v := rfl
@[simp] theorem State.setSt_i (b : Byte) : (s.setSt b).i = s.i := rfl
@[simp] theorem State.setSt_pc (b : Byte) : (s.setSt b).pc = s.pc := rfl
@[simp] theorem State.setSt_stack (b : Byte) : (s.setSt b).stack = s.stack := rfl
@[simp] theorem State.setSt_sp (b : Byte) : (s.setSt b).sp = s.sp := rfl
@[simp] theorem State.setSt_dt (b : Byte) : (s.setSt b).dt = s.dt := rfl
@[simp] theorem State.setSt_st (b : Byte) : (s.setSt b).st = b := rfl
@[simp] theorem State.setSt_mem (b : Byte) : (s.setSt b).mem = s.mem := rfl
@[simp] theorem State.setSt_display (b : Byte) : (s.setSt b).display = s.display := rfl
@[simp] theorem State.setSt_keys (b : Byte) : (s.setSt b).keys = s.keys := rfl
@[simp] theorem State.setSt_rnd (b : Byte) : (s.setSt b).rnd = s.rnd := rfl
@[simp] theorem State.setSt_report (b : Byte) : (s.setSt b).report = s.report := rfl
@[simp] theorem State.setSt_schedule (b : Byte) : (s.setSt b).schedule = s.schedule := rfl
@[simp] theorem State.setSt_turn (b : Byte) : (s.setSt b).turn = s.turn := rfl

/-! ### setDisplay -/

@[simp] theorem State.setDisplay_v (d : Display) : (s.setDisplay d).v = s.v := rfl
@[simp] theorem State.setDisplay_i (d : Display) : (s.setDisplay d).i = s.i := rfl
@[simp] theorem State.setDisplay_pc (d : Display) : (s.setDisplay d).pc = s.pc := rfl
@[simp] theorem State.setDisplay_stack (d : Display) : (s.setDisplay d).stack = s.stack := rfl
@[simp] theorem State.setDisplay_sp (d : Display) : (s.setDisplay d).sp = s.sp := rfl
@[simp] theorem State.setDisplay_dt (d : Display) : (s.setDisplay d).dt = s.dt := rfl
@[simp] theorem State.setDisplay_st (d : Display) : (s.setDisplay d).st = s.st := rfl
@[simp] theorem State.setDisplay_mem (d : Display) : (s.setDisplay d).mem = s.mem := rfl
@[simp] theorem State.setDisplay_display (d : Display) : (s.setDisplay d).display = d := rfl
@[simp] theorem State.setDisplay_keys (d : Display) : (s.setDisplay d).keys = s.keys := rfl
@[simp] theorem State.setDisplay_rnd (d : Display) : (s.setDisplay d).rnd = s.rnd := rfl
@[simp] theorem State.setDisplay_report (d : Display) : (s.setDisplay d).report = s.report := rfl
@[simp] theorem State.setDisplay_schedule (d : Display) : (s.setDisplay d).schedule = s.schedule := rfl
@[simp] theorem State.setDisplay_turn (d : Display) : (s.setDisplay d).turn = s.turn := rfl

/-! ### setReport -/

@[simp] theorem State.setReport_v (r : Report) : (s.setReport r).v = s.v := rfl
@[simp] theorem State.setReport_i (r : Report) : (s.setReport r).i = s.i := rfl
@[simp] theorem State.setReport_pc (r : Report) : (s.setReport r).pc = s.pc := rfl
@[simp] theorem State.setReport_stack (r : Report) : (s.setReport r).stack = s.stack := rfl
@[simp] theorem State.setReport_sp (r : Report) : (s.setReport r).sp = s.sp := rfl
@[simp] theorem State.setReport_dt (r : Report) : (s.setReport r).dt = s.dt := rfl
@[simp] theorem State.setReport_st (r : Report) : (s.setReport r).st = s.st := rfl
@[simp] theorem State.setReport_mem (r : Report) : (s.setReport r).mem = s.mem := rfl
@[simp] theorem State.setReport_display (r : Report) : (s.setReport r).display = s.display := rfl
@[simp] theorem State.setReport_keys (r : Report) : (s.setReport r).keys = s.keys := rfl
@[simp] theorem State.setReport_rnd (r : Report) : (s.setReport r).rnd = s.rnd := rfl
@[simp] theorem State.setReport_report (r : Report) : (s.setReport r).report = r := rfl
@[simp] theorem State.setReport_schedule (r : Report) : (s.setReport r).schedule = s.schedule := rfl
@[simp] theorem State.setReport_turn (r : Report) : (s.setReport r).turn = s.turn := rfl

/-! ### storeBytes -/

@[simp] theorem State.storeBytes_v (a : Nat) (bytes : List Byte) : (s.storeBytes a bytes).v = s.v := rfl
@[simp] theorem State.storeBytes_i (a : Nat) (bytes : List Byte) : (s.storeBytes a bytes).i = s.i := rfl
@[simp] theorem State.storeBytes_pc (a : Nat) (bytes : List Byte) : (s.storeBytes a bytes).pc = s.pc := rfl
@[simp] theorem State.storeBytes_stack (a : Nat) (bytes : List Byte) : (s.storeBytes a bytes).stack = s.stack := rfl
@[simp] theorem State.storeBytes_sp (a : Nat) (bytes : List Byte) : (s.storeBytes a bytes).sp = s.sp := rfl
@[simp] theorem State.storeBytes_dt (a : Nat) (bytes : List Byte) : (s.storeBytes a bytes).dt = s.dt := rfl
@[simp] theorem State.storeBytes_st (a : Nat) (bytes : List Byte) : (s.storeBytes a bytes).st = s.st := rfl
@[simp] theorem State.storeBytes_mem (a : Nat) (bytes : List Byte) : (s.storeBytes a bytes).mem = s.mem.store a bytes := rfl
@[simp] theorem State.storeBytes_display (a : Nat) (bytes : List Byte) : (s.storeBytes a bytes).display = s.display := rfl
@[simp] theorem State.storeBytes_keys (a : Nat) (bytes : List Byte) : (s.storeBytes a bytes).keys = s.keys := rfl
@[simp] theorem State.storeBytes_rnd (a : Nat) (bytes : List Byte) : (s.storeBytes a bytes).rnd = s.rnd := rfl
@[simp] theorem State.storeBytes_report (a : Nat) (bytes : List Byte) : (s.storeBytes a bytes).report = s.report := rfl
@[simp] theorem State.storeBytes_schedule (a : Nat) (bytes : List Byte) : (s.storeBytes a bytes).schedule = s.schedule := rfl
@[simp] theorem State.storeBytes_turn (a : Nat) (bytes : List Byte) : (s.storeBytes a bytes).turn = s.turn := rfl

/-! ### loadRegsUpTo -/

@[simp] theorem State.loadRegsUpTo_v (x : RegIndex) (a : Nat) : (s.loadRegsUpTo x a).v = Vector.ofFn fun k : Fin 16 => if k ≤ x then s.byte (a + k.val) else s.v[k] := rfl
@[simp] theorem State.loadRegsUpTo_i (x : RegIndex) (a : Nat) : (s.loadRegsUpTo x a).i = s.i := rfl
@[simp] theorem State.loadRegsUpTo_pc (x : RegIndex) (a : Nat) : (s.loadRegsUpTo x a).pc = s.pc := rfl
@[simp] theorem State.loadRegsUpTo_stack (x : RegIndex) (a : Nat) : (s.loadRegsUpTo x a).stack = s.stack := rfl
@[simp] theorem State.loadRegsUpTo_sp (x : RegIndex) (a : Nat) : (s.loadRegsUpTo x a).sp = s.sp := rfl
@[simp] theorem State.loadRegsUpTo_dt (x : RegIndex) (a : Nat) : (s.loadRegsUpTo x a).dt = s.dt := rfl
@[simp] theorem State.loadRegsUpTo_st (x : RegIndex) (a : Nat) : (s.loadRegsUpTo x a).st = s.st := rfl
@[simp] theorem State.loadRegsUpTo_mem (x : RegIndex) (a : Nat) : (s.loadRegsUpTo x a).mem = s.mem := rfl
@[simp] theorem State.loadRegsUpTo_display (x : RegIndex) (a : Nat) : (s.loadRegsUpTo x a).display = s.display := rfl
@[simp] theorem State.loadRegsUpTo_keys (x : RegIndex) (a : Nat) : (s.loadRegsUpTo x a).keys = s.keys := rfl
@[simp] theorem State.loadRegsUpTo_rnd (x : RegIndex) (a : Nat) : (s.loadRegsUpTo x a).rnd = s.rnd := rfl
@[simp] theorem State.loadRegsUpTo_report (x : RegIndex) (a : Nat) : (s.loadRegsUpTo x a).report = s.report := rfl
@[simp] theorem State.loadRegsUpTo_schedule (x : RegIndex) (a : Nat) : (s.loadRegsUpTo x a).schedule = s.schedule := rfl
@[simp] theorem State.loadRegsUpTo_turn (x : RegIndex) (a : Nat) : (s.loadRegsUpTo x a).turn = s.turn := rfl

/-! ### advance -/

@[simp] theorem State.advance_v : (s.advance).v = s.v := rfl
@[simp] theorem State.advance_i : (s.advance).i = s.i := rfl
@[simp] theorem State.advance_pc : (s.advance).pc = s.pc + 2 := rfl
@[simp] theorem State.advance_stack : (s.advance).stack = s.stack := rfl
@[simp] theorem State.advance_sp : (s.advance).sp = s.sp := rfl
@[simp] theorem State.advance_dt : (s.advance).dt = s.dt := rfl
@[simp] theorem State.advance_st : (s.advance).st = s.st := rfl
@[simp] theorem State.advance_mem : (s.advance).mem = s.mem := rfl
@[simp] theorem State.advance_display : (s.advance).display = s.display := rfl
@[simp] theorem State.advance_keys : (s.advance).keys = s.keys := rfl
@[simp] theorem State.advance_rnd : (s.advance).rnd = s.rnd := rfl
@[simp] theorem State.advance_report : (s.advance).report = s.report := rfl
@[simp] theorem State.advance_schedule : (s.advance).schedule = s.schedule := rfl
@[simp] theorem State.advance_turn : (s.advance).turn = s.turn := rfl

/-! ### beginStep -/

@[simp] theorem State.beginStep_v : (s.beginStep).v = s.v := rfl
@[simp] theorem State.beginStep_i : (s.beginStep).i = s.i := rfl
@[simp] theorem State.beginStep_pc : (s.beginStep).pc = s.pc := rfl
@[simp] theorem State.beginStep_stack : (s.beginStep).stack = s.stack := rfl
@[simp] theorem State.beginStep_sp : (s.beginStep).sp = s.sp := rfl
@[simp] theorem State.beginStep_dt : (s.beginStep).dt = tickTimes s.hostTurn.ticks s.dt := rfl
@[simp] theorem State.beginStep_st : (s.beginStep).st = tickTimes s.hostTurn.ticks s.st := rfl
@[simp] theorem State.beginStep_mem : (s.beginStep).mem = s.mem := rfl
@[simp] theorem State.beginStep_display : (s.beginStep).display = s.display := rfl
@[simp] theorem State.beginStep_keys : (s.beginStep).keys = s.hostTurn.keys := rfl
@[simp] theorem State.beginStep_rnd : (s.beginStep).rnd = s.hostTurn.rnd := rfl
@[simp] theorem State.beginStep_report : (s.beginStep).report = s.report := rfl
@[simp] theorem State.beginStep_schedule : (s.beginStep).schedule = s.schedule.tail := rfl
@[simp] theorem State.beginStep_turn : (s.beginStep).turn = s.turn + 1 := rfl

/-! ### plan -/

@[simp] theorem State.plan_v (t : HostTurn) : (s.plan t).v = s.v := rfl
@[simp] theorem State.plan_i (t : HostTurn) : (s.plan t).i = s.i := rfl
@[simp] theorem State.plan_pc (t : HostTurn) : (s.plan t).pc = s.pc := rfl
@[simp] theorem State.plan_stack (t : HostTurn) : (s.plan t).stack = s.stack := rfl
@[simp] theorem State.plan_sp (t : HostTurn) : (s.plan t).sp = s.sp := rfl
@[simp] theorem State.plan_dt (t : HostTurn) : (s.plan t).dt = s.dt := rfl
@[simp] theorem State.plan_st (t : HostTurn) : (s.plan t).st = s.st := rfl
@[simp] theorem State.plan_mem (t : HostTurn) : (s.plan t).mem = s.mem := rfl
@[simp] theorem State.plan_display (t : HostTurn) : (s.plan t).display = s.display := rfl
@[simp] theorem State.plan_keys (t : HostTurn) : (s.plan t).keys = s.keys := rfl
@[simp] theorem State.plan_rnd (t : HostTurn) : (s.plan t).rnd = s.rnd := rfl
@[simp] theorem State.plan_report (t : HostTurn) : (s.plan t).report = s.report := rfl
@[simp] theorem State.plan_schedule (t : HostTurn) : (s.plan t).schedule = s.schedule ++ [t] := rfl
@[simp] theorem State.plan_turn (t : HostTurn) : (s.plan t).turn = s.turn := rfl

/-! ### tick -/

@[simp] theorem State.tick_v : (s.tick).v = s.v := rfl
@[simp] theorem State.tick_i : (s.tick).i = s.i := rfl
@[simp] theorem State.tick_pc : (s.tick).pc = s.pc := rfl
@[simp] theorem State.tick_stack : (s.tick).stack = s.stack := rfl
@[simp] theorem State.tick_sp : (s.tick).sp = s.sp := rfl
@[simp] theorem State.tick_dt : (s.tick).dt = tickTimer s.dt := rfl
@[simp] theorem State.tick_st : (s.tick).st = tickTimer s.st := rfl
@[simp] theorem State.tick_mem : (s.tick).mem = s.mem := rfl
@[simp] theorem State.tick_display : (s.tick).display = s.display := rfl
@[simp] theorem State.tick_keys : (s.tick).keys = s.keys := rfl
@[simp] theorem State.tick_rnd : (s.tick).rnd = s.rnd := rfl
@[simp] theorem State.tick_report : (s.tick).report = s.report := rfl
@[simp] theorem State.tick_schedule : (s.tick).schedule = s.schedule := rfl
@[simp] theorem State.tick_turn : (s.tick).turn = s.turn := rfl

end Sys2Proof.Machine
end

