-- ==== Sys2Proof/Laws/Ops.lean ====
section
/-! SUPPORT. One lemma for each shared operation that says once everything it can do. -/

namespace Sys2Proof.Machine

/-! ### Registers -/

theorem State.reg_setReg (s : State) (x y : RegIndex) (b : Byte) :
    (s.setReg x b).reg y = if y = x then b else s.reg y := by
  simp only [State.reg, State.setReg, Fin.getElem_fin, Vector.getElem_set, Fin.ext_iff, eq_comm]

@[simp] theorem State.reg_setReg_self (s : State) (x : RegIndex) (b : Byte) : (s.setReg x b).reg x = b := by
  simp [State.reg_setReg]

/-- The flag is written last, so it is the final value of VF also when the destination is VF. -/
theorem State.reg_setRegThenFlag (s : State) (x y : RegIndex) (b flag : Byte) :
    (s.setRegThenFlag x b flag).reg y = if y = vf then flag else if y = x then b else s.reg y := by
  simp only [State.setRegThenFlag, State.reg_setReg]

/-- States agree when they agree on every register and on every other field. -/
theorem State.ext_regs {s t : State} (hv : ∀ r, s.reg r = t.reg r) (h : t = { s with v := t.v }) : s = t := by
  rw [h]
  have : s.v = t.v := by
    apply Vector.ext
    intro k hk
    exact hv ⟨k, hk⟩
  rw [← this]

theorem State.reg_loadRegsUpTo (s : State) (x y : RegIndex) (a : Nat) :
    (s.loadRegsUpTo x a).reg y = if y ≤ x then s.byte (a + y.val) else s.reg y := by
  simp [State.reg, State.loadRegsUpTo]

theorem State.regsUpTo_length (s : State) (x : RegIndex) : (s.regsUpTo x).length = x.val + 1 := by
  simp only [State.regsUpTo, List.length_take, Vector.length_toList]
  omega

theorem State.regsUpTo_getElem (s : State) (x : RegIndex) (k : Nat) (h : k < (s.regsUpTo x).length) :
    (s.regsUpTo x)[k]'h = s.reg ⟨k, by rw [State.regsUpTo_length] at h; omega⟩ := by
  simp [State.regsUpTo, State.reg]

/-! ### Index -/

theorem indexValue_toNat_le {cfg : Config} (h : cfg.iMask12 = true) (n : Nat) :
    (indexValue cfg n).toNat ≤ 0xFFF := by
  simp only [indexValue, h, if_true, BitVec.toNat_ofNat]
  omega

theorem indexValue_toNat {cfg : Config} (h : cfg.iMask12 = true) (n : Nat) :
    (indexValue cfg n).toNat = n % 4096 := by
  simp only [indexValue, h, if_true, BitVec.toNat_ofNat]
  omega

@[simp] theorem params_iMask12 : params.iMask12 = true := rfl
@[simp] theorem params_shiftSource : params.shiftSource = .vx := rfl
@[simp] theorem params_drawEdge : params.drawEdge = .clip := rfl
@[simp] theorem params_fx1eSetsVf : params.fx1eSetsVf = false := rfl
theorem params_font_length : params.font.length = 80 := rfl

/-! ### Call stack -/

/-- Everything a push can do. -/
theorem State.push_eq_some {s t : State} {w : Word} :
    s.push w = some t ↔ ∃ h : s.sp.val < 16,
      t = { s with stack := s.stack.set s.sp.val w h, sp := ⟨s.sp.val + 1, by omega⟩ } := by
  unfold State.push
  split
  · next h => simp [h, eq_comm]
  · next h => simp [h]

theorem State.push_eq_none {s : State} {w : Word} : s.push w = none ↔ s.sp = 16 := by
  unfold State.push
  split
  · next h =>
    simp only [reduceCtorEq, false_iff]
    intro h'
    simp [h'] at h
  · next h =>
    simp only [true_iff]
    exact Fin.ext (by have := s.sp.isLt; simp; omega)

/-- Everything a pop can do. -/
theorem State.pop_eq_some {s t : State} {w : Word} :
    s.pop = some (w, t) ↔ ∃ _ : s.sp.val ≠ 0, w = s.stack[s.sp.val - 1]'(by omega) ∧
      t = { s with sp := ⟨s.sp.val - 1, by omega⟩ } := by
  unfold State.pop
  split
  · next h => simp [h]
  · next h => simp [h, eq_comm]

theorem State.pop_eq_none {s : State} : s.pop = none ↔ s.sp = 0 := by
  unfold State.pop
  split
  · next h => simp [Fin.ext_iff, h]
  · next h => simp [Fin.ext_iff, h]

/-! ### The ways a step ends -/

@[simp] theorem complete_eq_next {s t : State} : complete s = .next t ↔ s.setReport .ok = t := by
  simp [complete]

@[simp] theorem complete_ne_fault {s : State} {f : Fault} : complete s ≠ .fault f := by
  simp [complete]

@[simp] theorem complete_ne_refused {s : State} {r : Refusal} : complete s ≠ .refused r := by
  simp [complete]

@[simp] theorem raiseError_eq_fault {f g : Fault} : raiseError f = .fault g ↔ f = g := by
  simp [raiseError]

@[simp] theorem raiseError_ne_next {f : Fault} {t : State} : raiseError f ≠ .next t := by
  simp [raiseError]

@[simp] theorem raiseError_ne_refused {f : Fault} {r : Refusal} : raiseError f ≠ .refused r := by
  simp [raiseError]

theorem completeInBounds_eq_next {base len : Nat} {s t : State} :
    completeInBounds base len s = .next t ↔ inBounds base len = true ∧ s.setReport .ok = t := by
  unfold completeInBounds
  split <;> simp_all

theorem completeInBounds_eq_fault {base len : Nat} {s : State} {f : Fault} :
    completeInBounds base len s = .fault f ↔
      inBounds base len = false ∧ f = .outOfBounds (firstOutOfBounds base) := by
  unfold completeInBounds
  split
  · next h => simp [h]
  · next h =>
    rw [raiseError_eq_fault]
    simp only [h, true_and]
    exact eq_comm

theorem completeInBounds_ne_refused {base len : Nat} {s : State} {r : Refusal} :
    completeInBounds base len s ≠ .refused r := by
  unfold completeInBounds
  split <;> simp

theorem skipIf_eq (c : Bool) (s : State) :
    skipIf c s = complete (s.setPc (if c then s.pc + 2 else s.pc)) := rfl

/-! ### Keys -/

/-- `any_pressed()` is the lowest pressed key. -/
theorem anyPressed_eq_some {keys : Vector Bool 16} {k : Fin 16} :
    anyPressed keys = some k ↔ keys[k] = true ∧ ∀ j : Fin 16, j < k → keys[j] = false := by
  unfold anyPressed
  rw [List.find?_eq_some_iff_getElem]
  constructor
  · rintro ⟨hk, i, hi, hik, hlt⟩
    refine ⟨hk, fun j hj => ?_⟩
    have hik' : k.val = i := by simpa [eq_comm, Fin.ext_iff] using hik
    have := hlt j.val (by simpa [← hik'] using hj)
    simpa using this
  · rintro ⟨hk, hlt⟩
    refine ⟨hk, k.val, by simp, by simp, fun j hj => ?_⟩
    have := hlt ⟨j, by omega⟩ hj
    simpa using this

theorem anyPressed_eq_none {keys : Vector Bool 16} :
    anyPressed keys = none ↔ ∀ k : Fin 16, keys[k] = false := by
  simp only [anyPressed, List.find?_eq_none, List.mem_finRange, true_imp_iff, Bool.not_eq_true]

end Sys2Proof.Machine
end

