-- ==== Sys2Proof/Laws/PerInstr.lean ====
section
/-! SUPPORT. The family RowMatch: the opcode of every instruction matches its own row of
opcode_table.json (30_encoding.md R93). One lemma per constructor, over one lemma per format. -/

namespace Sys2Proof.Laws.RowMatch

/-- Under its row's mask the instruction's opcode is its row's match. -/
def Statement (i : Instr) : Prop := encode i &&& i.rowMatchMask.2 = i.rowMatchMask.1

theorem formatA_row {c : Nat} (hc : c < 16) (nnn : Addr) :
    formatA c nnn &&& 0xF000 = BitVec.ofNat 16 (c * 4096) := by
  rw [and_classMask, fieldN1_formatA hc]

theorem formatXNN_row {c : Nat} (hc : c < 16) (x : RegIndex) (nn : Byte) :
    formatXNN c x nn &&& 0xF000 = BitVec.ofNat 16 (c * 4096) := by
  rw [and_classMask, fieldN1_formatXNN hc]

theorem formatXYN_row {c : Nat} (hc : c < 16) (x y : RegIndex) (k : Nat) :
    formatXY c x y k &&& 0xF000 = BitVec.ofNat 16 (c * 4096) := by
  rw [and_classMask, fieldN1_formatXY hc]

theorem formatXY_row {c : Nat} (hc : c < 16) (x y : RegIndex) (k : Nat) :
    formatXY c x y k &&& 0xF00F = BitVec.ofNat 16 (c * 4096) ||| BitVec.ofNat 16 (k % 16) := by
  rw [and_xyMask, fieldN1_formatXY hc, fieldN_formatXY]

theorem formatX_row {c sub : Nat} (hc : c < 16) (hs : sub < 256) (x : RegIndex) :
    formatX c x sub &&& 0xF0FF = BitVec.ofNat 16 (c * 4096) ||| BitVec.ofNat 16 sub := by
  rw [and_xMask, fieldN1_formatX hc hs, fieldSub_formatX hs]

theorem cls : Statement .cls := rfl

theorem ret : Statement .ret := rfl

theorem jp (nnn : Addr) : Statement (.jp nnn) :=
  formatA_row (by decide) nnn

theorem call (nnn : Addr) : Statement (.call nnn) :=
  formatA_row (by decide) nnn

theorem seImm (x : RegIndex) (nn : Byte) : Statement (.seImm x nn) :=
  formatXNN_row (by decide) x nn

theorem sneImm (x : RegIndex) (nn : Byte) : Statement (.sneImm x nn) :=
  formatXNN_row (by decide) x nn

theorem seReg (x y : RegIndex) : Statement (.seReg x y) :=
  formatXY_row (by decide) x y 0

theorem ldImm (x : RegIndex) (nn : Byte) : Statement (.ldImm x nn) :=
  formatXNN_row (by decide) x nn

theorem addImm (x : RegIndex) (nn : Byte) : Statement (.addImm x nn) :=
  formatXNN_row (by decide) x nn

theorem ldReg (x y : RegIndex) : Statement (.ldReg x y) :=
  formatXY_row (by decide) x y 0

theorem orReg (x y : RegIndex) : Statement (.orReg x y) :=
  formatXY_row (by decide) x y 1

theorem andReg (x y : RegIndex) : Statement (.andReg x y) :=
  formatXY_row (by decide) x y 2

theorem xorReg (x y : RegIndex) : Statement (.xorReg x y) :=
  formatXY_row (by decide) x y 3

theorem addReg (x y : RegIndex) : Statement (.addReg x y) :=
  formatXY_row (by decide) x y 4

theorem subReg (x y : RegIndex) : Statement (.subReg x y) :=
  formatXY_row (by decide) x y 5

theorem shr (x y : RegIndex) : Statement (.shr x y) :=
  formatXY_row (by decide) x y 6

theorem subnReg (x y : RegIndex) : Statement (.subnReg x y) :=
  formatXY_row (by decide) x y 7

theorem shl (x y : RegIndex) : Statement (.shl x y) :=
  formatXY_row (by decide) x y 14

theorem sneReg (x y : RegIndex) : Statement (.sneReg x y) :=
  formatXY_row (by decide) x y 0

theorem ldI (nnn : Addr) : Statement (.ldI nnn) :=
  formatA_row (by decide) nnn

theorem jpV0 (nnn : Addr) : Statement (.jpV0 nnn) :=
  formatA_row (by decide) nnn

theorem rnd (x : RegIndex) (nn : Byte) : Statement (.rnd x nn) :=
  formatXNN_row (by decide) x nn

theorem drw (x y : RegIndex) (n : Nat) : Statement (.drw x y n) :=
  formatXYN_row (by decide) x y n

theorem skp (x : RegIndex) : Statement (.skp x) :=
  formatX_row (by decide) (by decide) x

theorem sknp (x : RegIndex) : Statement (.sknp x) :=
  formatX_row (by decide) (by decide) x

theorem ldVxDt (x : RegIndex) : Statement (.ldVxDt x) :=
  formatX_row (by decide) (by decide) x

theorem ldVxK (x : RegIndex) : Statement (.ldVxK x) :=
  formatX_row (by decide) (by decide) x

theorem ldDtVx (x : RegIndex) : Statement (.ldDtVx x) :=
  formatX_row (by decide) (by decide) x

theorem ldStVx (x : RegIndex) : Statement (.ldStVx x) :=
  formatX_row (by decide) (by decide) x

theorem addI (x : RegIndex) : Statement (.addI x) :=
  formatX_row (by decide) (by decide) x

theorem ldF (x : RegIndex) : Statement (.ldF x) :=
  formatX_row (by decide) (by decide) x

theorem ldB (x : RegIndex) : Statement (.ldB x) :=
  formatX_row (by decide) (by decide) x

theorem stRegs (x : RegIndex) : Statement (.stRegs x) :=
  formatX_row (by decide) (by decide) x

theorem ldRegs (x : RegIndex) : Statement (.ldRegs x) :=
  formatX_row (by decide) (by decide) x

end Sys2Proof.Laws.RowMatch
end

