-- ==== Sys2Proof/Laws/Step.lean ====
section
/-! SUPPORT. What a fetch and a step can do, said once. -/

namespace Sys2Proof.Machine

theorem fetch_eq_ok {s : State} {op : Word} :
    fetch s = .ok op ↔ inBounds s.pc.toNat 2 = true ∧ s.mem.opcodeAt s.pc.toNat = op := by
  unfold fetch
  split <;> simp_all

theorem fetch_eq_error {s : State} {f : Fault} :
    fetch s = .error f ↔
      inBounds s.pc.toNat 2 = false ∧ .outOfBounds (firstOutOfBounds s.pc.toNat) = f := by
  unfold fetch
  split <;> simp_all

/-- Everything a step can do that ends in a next state: a decoded instruction ran, or the opcode was a
decode-miss. -/
theorem step_cases {s t : State} (h : step s = .next t) :
    (∃ i, inBounds s.pc.toNat 2 = true ∧ decodeWord (s.mem.opcodeAt s.pc.toNat) = .ok i ∧
      exec i s.beginStep.advance = .next t) ∨
    (∃ e, inBounds s.pc.toNat 2 = true ∧ decodeWord (s.mem.opcodeAt s.pc.toNat) = .error e ∧
      t = s.beginStep.advance.setReport (.decodeMiss (s.mem.opcodeAt s.pc.toNat))) := by
  unfold step cycle at h
  cases hf : fetch s.beginStep with
  | error f => simp [hf] at h
  | ok op =>
    obtain ⟨hb, hop⟩ := fetch_eq_ok.mp hf
    simp only [State.beginStep_pc, State.beginStep_mem] at hb hop
    subst hop
    simp only [hf] at h
    cases hd : decodeWord (s.mem.opcodeAt s.pc.toNat) with
    | ok i => exact .inl ⟨i, hb, rfl, by simpa only [hd] using h⟩
    | error e =>
      refine .inr ⟨e, hb, rfl, ?_⟩
      simp only [hd, finishDecodeMiss, Host.Outcome.next.injEq] at h
      exact h.symm

end Sys2Proof.Machine
end

