-- ==== Sys2Proof/Laws/Values.lean ====
section
/-! SUPPORT. What the operand and flag computations give, as natural numbers, and the two ends of a bounds
check. -/

namespace Sys2Proof.Machine

theorem joinBytes_toNat (hi lo : Byte) : (joinBytes hi lo).toNat = hi.toNat * 256 + lo.toNat := by
  have := lo.isLt
  simp only [joinBytes, BitVec.toNat_append]
  rw [← Nat.shiftLeft_add_eq_or_of_lt (by omega), Nat.shiftLeft_eq]

theorem decodeBytes_pair (hi lo : Byte) (i : Instr) :
    decodeBytes [hi, lo] = .ok (i, []) ↔ decodeWord (joinBytes hi lo) = .ok i := by
  simp only [decodeBytes]
  cases decodeWord (joinBytes hi lo) <;> simp

theorem tickTimer_toNat (t : Byte) : (tickTimer t).toNat = t.toNat - 1 := by
  have := t.isLt
  unfold tickTimer
  split
  · simp only [BitVec.toNat_ofNat]
    omega
  · omega

theorem flagByte_toNat (b : Bool) : (flagByte b).toNat = if b then 1 else 0 := by
  cases b <;> rfl

theorem sumByte_toNat (a b : Byte) : (sumByte a b).toNat = (a.toNat + b.toNat) % 256 := by
  simp [sumByte]

theorem differenceByte_toNat (a b : Byte) : (differenceByte a b).toNat = (a.toNat + 256 - b.toNat) % 256 := by
  have := a.isLt
  have := b.isLt
  simp only [differenceByte, BitVec.toNat_ofInt]
  omega

theorem shiftRightOne_toNat (a : Byte) : (shiftRightOne a).toNat = a.toNat / 2 := by
  have := a.isLt
  simp only [shiftRightOne, BitVec.toNat_ofNat]
  omega

theorem shiftLeftOne_toNat (a : Byte) : (shiftLeftOne a).toNat = a.toNat * 2 % 256 := by
  simp [shiftLeftOne]

theorem lsbFlag_toNat (a : Byte) : (lsbFlag a).toNat = a.toNat % 2 := by
  simp only [lsbFlag, flagByte_toNat, BitVec.getLsbD, Nat.testBit_zero, decide_eq_true_eq]
  split <;> omega

theorem msbFlag_toNat (a : Byte) : (msbFlag a).toNat = a.toNat / 128 := by
  have := a.isLt
  simp only [msbFlag, flagByte_toNat, BitVec.getLsbD, Nat.testBit_eq_decide_div_mod_eq, decide_eq_true_eq]
  split <;> omega

/-- An access that lies in memory completes. -/
theorem completeInBounds_of_le {b l : Nat} {s : State} (h : l = 0 ∨ b + l ≤ 4096) :
    completeInBounds b l s = .next (s.setReport .ok) := by
  rw [completeInBounds_eq_next]
  exact ⟨(inBounds_iff _ _).mpr h, rfl⟩

/-- When an access raises an error, and which. -/
theorem completeInBounds_fault_iff {b l : Nat} {s : State} {f : Fault} :
    completeInBounds b l s = .fault f ↔ l ≠ 0 ∧ 4096 < b + l ∧ f = .outOfBounds (max b 4096) := by
  rw [completeInBounds_eq_fault, inBounds_eq_false_iff]
  simp only [firstOutOfBounds, and_assoc]

/-- A register reads alike in states with the same registers. -/
theorem State.reg_congr {s t : State} (h : t.v = s.v) (k : RegIndex) : t.reg k = s.reg k := by
  unfold State.reg
  rw [h]

end Sys2Proof.Machine
end

