-- ==== Sys2Proof/Tests/Slice0.lean ====
section
/-! SUPPORT. Tests of one step each, with expected results from 95_test_vectors.md (named by its row
numbers) or read off an instruction's Encoding line, and the witnesses of the obligations' hypotheses. -/

open Sys2Proof Sys2Proof.Machine Sys2Proof.Claims

namespace Sys2Proof.Tests

/-! ### Helpers -/

/-- A host turn with no tick, no key pressed and the random byte of row A38. -/
def quiet : HostTurn := { ticks := 0, keys := Vector.replicate 16 false, rnd := 0xA7 }

/-- A host turn with the listed keys pressed. -/
def pressing (ks : List (Fin 16)) : HostTurn := { quiet with keys := Vector.ofFn fun k => ks.contains k }

/-- Registers set one after another. -/
def withRegs (l : List (RegIndex × Byte)) (s : State) : State :=
  l.foldl (fun s p => s.setReg p.1 p.2) s

/-- Reset, I and registers as given, the opcode at 0x200 and the host's turn settled. -/
def start (t : HostTurn) (i : Word) (l : List (RegIndex × Byte)) (op : Nat) : State :=
  ((withRegs l { State.reset with i := i }).plan t).withFetchWord 16 op

/-- What one step from such a state leaves. -/
def run (i : Word) (l : List (RegIndex × Byte)) (op : Nat) : Option State := nextOf (step (start quiet i l op))

/-- X, VF and PC after one step. -/
def aluOf (x : RegIndex) (l : List (RegIndex × Byte)) (op : Nat) : Option (Byte × Byte × Word) :=
  (run 0 l op).map fun t => (t.reg x, t.reg 15, t.pc)

/-- PC after one step. -/
def pcOf (r : Option State) : Option Word := r.map fun t => t.pc

/-- Whether the listed cells are set. -/
def cells (d : Display) (ps : List (Fin 64 × Fin 32)) : List Bool := ps.map fun p => d.get ⟨p.1, p.2⟩

/-- Whether the listed cells are set after a sprite is drawn on a clear display. -/
def drawn (edge : DrawEdge) (x0 y0 : Nat) (rows : List Byte) (ps : List (Fin 64 × Fin 32)) : List Bool :=
  cells (drawSprite edge x0 y0 rows Display.clear).display ps

/-! ### Syntax and decoding -/

theorem test_ill_formed_sprite_height_is_refused : (Instr.drw 0 0 16).wellFormed = false := by decide

theorem test_decode_class_0 :
    decodeWord 0x00E0 = .ok .cls ∧ decodeWord 0x00EE = .ok .ret ∧
    decodeWord 0x0123 = .error (.decodeMiss 0x0123) := by decide

theorem test_decode_addresses :
    decodeWord 0x1234 = .ok (.jp 0x234) ∧ decodeWord 0x2ABC = .ok (.call 0xABC) ∧
    decodeWord 0xA30F = .ok (.ldI 0x30F) ∧ decodeWord 0xB5F1 = .ok (.jpV0 0x5F1) := by decide

theorem test_decode_immediates :
    decodeWord 0x3A42 = .ok (.seImm 0xA 0x42) ∧ decodeWord 0x4B24 = .ok (.sneImm 0xB 0x24) ∧
    decodeWord 0x6C81 = .ok (.ldImm 0xC 0x81) ∧ decodeWord 0x7D18 = .ok (.addImm 0xD 0x18) ∧
    decodeWord 0xCE3F = .ok (.rnd 0xE 0x3F) := by decide

theorem test_decode_register_pairs :
    decodeWord 0x51A0 = .ok (.seReg 1 0xA) ∧ decodeWord 0x92B0 = .ok (.sneReg 2 0xB) ∧
    decodeWord 0x8120 = .ok (.ldReg 1 2) ∧ decodeWord 0x8341 = .ok (.orReg 3 4) ∧
    decodeWord 0x8562 = .ok (.andReg 5 6) ∧ decodeWord 0x8783 = .ok (.xorReg 7 8) ∧
    decodeWord 0x89A4 = .ok (.addReg 9 0xA) ∧ decodeWord 0x8BC5 = .ok (.subReg 0xB 0xC) ∧
    decodeWord 0x8DE6 = .ok (.shr 0xD 0xE) ∧ decodeWord 0x8F07 = .ok (.subnReg 0xF 0) ∧
    decodeWord 0x812E = .ok (.shl 1 2) ∧ decodeWord 0xD12F = .ok (.drw 1 2 15) := by decide

theorem test_decode_single_register :
    decodeWord 0xE29E = .ok (.skp 2) ∧ decodeWord 0xE3A1 = .ok (.sknp 3) ∧
    decodeWord 0xF407 = .ok (.ldVxDt 4) ∧ decodeWord 0xF50A = .ok (.ldVxK 5) ∧
    decodeWord 0xF615 = .ok (.ldDtVx 6) ∧ decodeWord 0xF718 = .ok (.ldStVx 7) ∧
    decodeWord 0xF81E = .ok (.addI 8) ∧ decodeWord 0xF929 = .ok (.ldF 9) ∧
    decodeWord 0xFA33 = .ok (.ldB 0xA) ∧ decodeWord 0xFB55 = .ok (.stRegs 0xB) ∧
    decodeWord 0xFC65 = .ok (.ldRegs 0xC) := by decide

/-- V4 to V7. -/
theorem test_decode_misses :
    decodeWord 0x5121 = .error (.decodeMiss 0x5121) ∧ decodeWord 0x8128 = .error (.decodeMiss 0x8128) ∧
    decodeWord 0xE1A2 = .error (.decodeMiss 0xE1A2) ∧ decodeWord 0xF175 = .error (.decodeMiss 0xF175) := by
  decide

/-- Bytes are read high byte first, what follows is left, and a lone byte is too short (R65, R90). -/
theorem test_decode_bytes :
    decodeBytes [0x61, 0x05, 0x12] = .ok (.ldImm 1 5, [0x12]) ∧ decodeBytes [0x61] = .error (.tooShort 1) := by decide

/-- A row's word is the whole opcode; the table numbers its bits from the least significant one. -/
theorem test_decode_table_word : decodeTableWord 16 0xD125 = some (.drw 1 2 5) := by decide

/-! ### The cycle -/

/-- V2. -/
theorem test_step_decode_miss_on_an_empty_rom :
    (nextOf (step (State.reset.plan quiet))).map (fun t => (t.pc, t.report)) = some (0x202, .decodeMiss 0) := by
  decide

/-- V8. -/
theorem test_step_fetch_of_the_last_two_bytes :
    (nextOf (step ({ State.reset with pc := 0xFFE }.plan quiet))).map (fun t => (t.pc, t.report))
      = some (0x1000, .decodeMiss 0) := by decide

/-- V9 and V11. -/
theorem test_step_fetch_outside_memory :
    faultOf (step ({ State.reset with pc := 0xFFF }.plan quiet)) = some (.outOfBounds 0x1000) ∧
    faultOf (step ({ State.reset with pc := 0x10FE }.plan quiet)) = some (.outOfBounds 0x10FE) := by decide

/-- V12: an odd PC. -/
theorem test_step_odd_pc :
    (nextOf (step (({ State.reset with pc := 0x201 }.plan quiet).withFetchWord 16 0x6105))).map
      (fun t => (t.reg 1, t.pc)) = some (5, 0x203) := by decide

/-- The first step after reset runs a placed word also when the host's turn is free. -/
theorem test_step_with_a_free_host :
    (nextOf (step (State.reset.withFetchWord 16 0x1234))).map (fun t => t.pc) = some 0x234 := by rfl

/-! ### Control transfer and skips: rows F1 to F19 -/

/-- F6. -/
theorem test_ret :
    (nextOf (step ({ start quiet 0 [] 0x00EE with
        stack := (Vector.replicate 16 0).set 0 0x206 |>.set 1 0x30A, sp := 2 }))).map
      (fun t => (t.pc, t.sp, t.stack[1])) = some (0x30A, 1, 0x30A) := by decide

/-- F5. -/
theorem test_ret_underflow : faultOf (step (start quiet 0 [] 0x00EE)) = some .stackUnderflow := by decide

/-- F2. -/
theorem test_jp : pcOf (run 0 [] 0x1FFF) = some 0xFFF := by decide

/-- F3. -/
theorem test_call :
    (run 0 [] 0x2400).map (fun t => (t.stack[0], t.sp, t.pc)) = some (0x202, 1, 0x400) := by decide

/-- F4. -/
theorem test_call_overflow :
    faultOf (step { start quiet 0 [] 0x2400 with sp := 16 }) = some .stackOverflow := by decide

/-- F7 and F8. -/
theorem test_se_imm :
    pcOf (run 0 [(3, 0x42)] 0x3342) = some 0x204 ∧ pcOf (run 0 [(3, 0x41)] 0x3342) = some 0x202 := by decide

/-- F9 and F10. -/
theorem test_sne_imm :
    pcOf (run 0 [(3, 0x41)] 0x4342) = some 0x204 ∧ pcOf (run 0 [(3, 0x42)] 0x4342) = some 0x202 := by decide

/-- F11 and F12. -/
theorem test_se_reg :
    pcOf (run 0 [(1, 7), (2, 7)] 0x5120) = some 0x204 ∧
    pcOf (run 0 [(1, 7), (2, 8)] 0x5120) = some 0x202 := by decide

/-- F14 and F15. -/
theorem test_sne_reg :
    pcOf (run 0 [(1, 7), (2, 8)] 0x9120) = some 0x204 ∧ pcOf (run 0 [(1, 7)] 0x9110) = some 0x202 := by decide

/-- F17 and F18. -/
theorem test_jp_v0 :
    pcOf (run 0 [(0, 0xFF)] 0xBFFF) = some 0x10FE ∧ pcOf (run 0 [(5, 0x10)] 0xB500) = some 0x500 := by decide

/-! ### Loads and ALU: rows A1 to A46 -/

/-- A1 and A2. -/
theorem test_ld_imm :
    aluOf 1 [(15, 0x55)] 0x6105 = some (5, 0x55, 0x202) ∧
    aluOf 1 [(1, 3), (15, 0x55)] 0x6F07 = some (3, 7, 0x202) := by decide

/-- A3 and A5. -/
theorem test_add_imm :
    aluOf 1 [(1, 2), (15, 0x55)] 0x71FF = some (1, 0x55, 0x202) ∧
    aluOf 15 [(15, 2)] 0x7FFF = some (1, 1, 0x202) := by decide

/-- A6. -/
theorem test_ld_reg : aluOf 1 [(1, 9), (2, 0x33), (15, 0x55)] 0x8120 = some (0x33, 0x55, 0x202) := by decide

/-- A7 and A46. -/
theorem test_or_reg :
    aluOf 1 [(1, 0xF0), (2, 0x0F), (15, 0x55)] 0x8121 = some (0xFF, 0x55, 0x202) ∧
    aluOf 15 [(15, 0x0F), (2, 0xF0)] 0x8F21 = some (0xFF, 0xFF, 0x202) := by decide

/-- A8. -/
theorem test_and_reg :
    aluOf 1 [(1, 0xF0), (2, 0x3C), (15, 0x55)] 0x8122 = some (0x30, 0x55, 0x202) := by decide

/-- A9 and A10. -/
theorem test_xor_reg :
    aluOf 1 [(1, 0xF0), (2, 0x3C), (15, 0x55)] 0x8123 = some (0xCC, 0x55, 0x202) ∧
    aluOf 1 [(1, 0xA5), (15, 0x55)] 0x8113 = some (0, 0x55, 0x202) := by decide

/-- A11 and A14. -/
theorem test_add_reg :
    aluOf 1 [(1, 200), (2, 100), (15, 0x55)] 0x8124 = some (44, 1, 0x202) ∧
    aluOf 1 [(1, 0x80), (2, 0x7F), (15, 0x55)] 0x8124 = some (0xFF, 0, 0x202) := by decide

/-- A41 and A42: VF as destination, VF as operand. -/
theorem test_add_reg_with_vf :
    aluOf 15 [(15, 0x10), (1, 0xF5)] 0x8F14 = some (1, 1, 0x202) ∧
    aluOf 1 [(1, 0xFF), (15, 0x01)] 0x81F4 = some (0, 1, 0x202) := by decide

/-- A18 and A20. -/
theorem test_sub_reg :
    aluOf 1 [(1, 5), (2, 5), (15, 0x55)] 0x8125 = some (0, 1, 0x202) ∧
    aluOf 1 [(1, 3), (2, 10), (15, 0x55)] 0x8125 = some (0xF9, 0, 0x202) := by decide

/-- A22 and A25. -/
theorem test_subn_reg :
    aluOf 1 [(1, 3), (2, 10), (15, 0x55)] 0x8127 = some (7, 1, 0x202) ∧
    aluOf 1 [(1, 10), (2, 3), (15, 0x55)] 0x8127 = some (0xF9, 0, 0x202) := by decide

/-- A28, A30 and A44. -/
theorem test_shr :
    aluOf 1 [(1, 0xFF), (15, 0x55)] 0x8126 = some (0x7F, 1, 0x202) ∧
    aluOf 1 [(1, 0x02), (2, 0xFF), (15, 0x55)] 0x8126 = some (0x01, 0, 0x202) ∧
    aluOf 15 [(15, 3)] 0x8F06 = some (1, 1, 0x202) := by decide

/-- A31. -/
theorem test_shr_from_vy :
    (nextOf (shrWith { params with shiftSource := .vy } 1 2 (withRegs [(1, 0x02), (2, 0xFF)] State.reset))).map
      (fun t => (t.reg 1, t.reg 15)) = some (0x7F, 1) := by decide

/-- A32, A36 and A45. -/
theorem test_shl :
    aluOf 1 [(1, 0x81), (15, 0x55)] 0x812E = some (0x02, 1, 0x202) ∧
    aluOf 1 [(1, 0x01), (2, 0x80), (15, 0x55)] 0x812E = some (0x02, 0, 0x202) ∧
    aluOf 15 [(15, 0x40)] 0x8F0E = some (0, 0, 0x202) := by decide

/-- A37. -/
theorem test_shl_from_vy :
    (nextOf (shlWith { params with shiftSource := .vy } 1 2 (withRegs [(1, 0x01), (2, 0x80)] State.reset))).map
      (fun t => (t.reg 1, t.reg 15)) = some (0x00, 1) := by decide

/-- A38. -/
theorem test_rnd : aluOf 3 [(15, 0x55)] 0xC30F = some (0x07, 0x55, 0x202) := by decide

/-! ### Index register, BCD, block transfer: rows I1 to I23 -/

/-- I2. -/
theorem test_ld_i : (run 0 [] 0xAFFF).map (fun t => t.i) = some 0xFFF := by decide

/-- I4. -/
theorem test_add_i :
    (run 0xFFF [(0, 1), (15, 0x77)] 0xF01E).map (fun t => (t.i, t.reg 15)) = some (0, 0x77) := by decide

/-- I7. -/
theorem test_add_i_setting_vf :
    (nextOf (addIWith { params with fx1eSetsVf := true } 0 (withRegs [(0, 1)] { State.reset with i := 0xFFF }))).map
      (fun t => (t.i, t.reg 15)) = some (0, 1) := by decide

/-- I10 and I11. -/
theorem test_ld_f :
    (run 0 [(0, 0x1A)] 0xF029).map (fun t => t.i) = some 0x032 ∧
    (run 0 [(0, 0x0F)] 0xF029).map (fun t => t.i) = some 0x04B := by decide

/-- I14. -/
theorem test_ld_b :
    (run 0xFFD [(0, 123)] 0xF033).map (fun t => (t.byte 0xFFD, t.byte 0xFFE, t.byte 0xFFF, t.i))
      = some (1, 2, 3, 0xFFD) := by decide

/-- I15. -/
theorem test_ld_b_out_of_bounds :
    faultOf (step (start quiet 0xFFE [(0, 123)] 0xF033)) = some (.outOfBounds 0x1000) := by decide

/-- L1-8: the dump overwrites its own opcode. -/
theorem test_st_regs :
    (run 0x200 [(0, 105), (1, 5), (2, 14)] 0xF555).map (fun t => (t.mem.load 0x200 6, t.i, t.pc))
      = some ([105, 5, 14, 0, 0, 0], 0x206, 0x202) := by decide

/-- I18 and I19. -/
theorem test_st_regs_at_the_end_of_memory :
    (run 0xFFF [(0, 9)] 0xF055).map (fun t => (t.byte 0xFFF, t.i)) = some (9, 0) ∧
    faultOf (step (start quiet 0xFFF [] 0xF155)) = some (.outOfBounds 0x1000) := by decide

/-- I20, with the bytes to load placed at 0x300. -/
theorem test_ld_regs :
    (nextOf (step ((start quiet 0x300 [(3, 0x44)] 0xF265).storeBytes 0x300 [1, 2, 3]))).map
      (fun t => (t.reg 0, t.reg 1, t.reg 2, t.reg 3, t.i)) = some (1, 2, 3, 0x44, 0x303) := by decide

/-- I22. -/
theorem test_ld_regs_out_of_bounds :
    faultOf (step (start quiet 0xFF1 [] 0xFF65)) = some (.outOfBounds 0x1000) := by decide

/-! ### Display: rows D1 to D13 -/

/-- D10. -/
theorem test_cls :
    (nextOf (step { start quiet 0 [(15, 7)] 0x00E0 with
        display := Vector.replicate 32 (Vector.replicate 64 true) })).map
      (fun t => (cells t.display [(0, 0), (63, 31)], t.reg 15)) = some ([false, false], 7) := by decide

/-- D6: VF is a coordinate and then the flag. -/
theorem test_drw :
    (nextOf (step ((start quiet 0x300 [(15, 3), (0, 2)] 0xD0F1).storeBytes 0x300 [0x80]))).map
      (fun t => (cells t.display [(2, 3), (3, 3), (2, 2)], t.reg 15)) = some ([true, false, false], 0) := by
  decide

/-- D8. -/
theorem test_drw_out_of_bounds :
    faultOf (step (start quiet 0xFFF [] 0xD002)) = some (.outOfBounds 0x1000) := by decide

/-- D3, drawing the second sprite of that row on the cells the first one set: a partial erase. -/
theorem test_canvas_partial_erase :
    (fun k : Canvas => (cells k.display [(1, 0), (2, 0), (5, 0), (6, 0)], k.collide))
      (drawSprite .clip 0 0 [0x3C] (drawSprite .clip 0 0 [0xFF] Display.clear).display)
      = ([true, false, false, true], true) := by decide

/-- D11 and D12, at the cells where the three edge rules differ. -/
theorem test_canvas_edges :
    [drawn .clip 62 31 [0xFF, 0x81] [(62, 31), (0, 31), (62, 0)],
        drawn .wrap 62 31 [0xFF, 0x81] [(62, 31), (0, 31), (62, 0)],
        drawn .clip 70 34 [0xC0] [(6, 2)], drawn .wrapOriginClip 70 34 [0xC0] [(6, 2)]]
      = [[true, false, false], [true, true, true], [false], [true]] := by decide

/-! ### Keypad and timers: rows K1 to K13 -/

/-- K2 and K3. -/
theorem test_skp :
    pcOf (run 0 [(2, 5)] 0xE29E) = some 0x202 ∧
    pcOf (nextOf (step (start (pressing [5]) 0 [(2, 0x15)] 0xE29E))) = some 0x204 := by decide

/-- K4 and K5. -/
theorem test_sknp :
    pcOf (run 0 [(2, 5)] 0xE2A1) = some 0x204 ∧
    pcOf (nextOf (step (start (pressing [5]) 0 [(2, 5)] 0xE2A1))) = some 0x202 := by decide

/-- K6. -/
theorem test_ld_vx_dt :
    (nextOf (step { start quiet 0 [] 0xF307 with dt := 0x3C })).map (fun t => t.reg 3) = some 0x3C := by decide

/-- K7. -/
theorem test_ld_vx_k_waits :
    (run 0 [(5, 0x11)] 0xF50A).map (fun t => (t.pc, t.reg 5, t.report)) = some (0x200, 0x11, .awaitingKey) := by
  decide

/-- K9. -/
theorem test_ld_vx_k_takes_the_lowest :
    (nextOf (step (start (pressing [7, 3]) 0 [] 0xF50A))).map (fun t => (t.reg 5, t.pc, t.report))
      = some (3, 0x202, .ok) := by decide

/-- K11. -/
theorem test_ld_dt_vx : (run 0 [(3, 0x3C)] 0xF315).map (fun t => (t.dt, t.st)) = some (0x3C, 0) := by decide

/-- K12. -/
theorem test_ld_st_vx : (run 0 [(3, 0x05)] 0xF318).map (fun t => (t.dt, t.st)) = some (0, 5) := by decide

/-- K13. -/
theorem test_tick : ({ State.reset with dt := 2 }.tick.dt, { State.reset with dt := 2 }.tick.st) = (1, 0) := by
  decide

/-- Section 2.7, row R1. -/
theorem test_load :
    (nextOf (load [0x61, 0x05, 0x12, 0x02])).map (fun t => (t.mem.load 0x200 5, t.byte 0x04F, t.byte 0x050, t.pc))
      = some ([0x61, 0x05, 0x12, 0x02, 0], 0x80, 0, 0x200) := by decide

/-! ### Witnesses: states and operands that meet the hypotheses of the obligations, clause by clause -/

theorem witness_DecodeOfEncodeGivesTheInstruction : (Instr.drw 15 15 15).wellFormed = true := by decide

theorem witness_FetchReadsHighByteFirst : ({ State.reset with pc := 0xFFE } : State).pc.toNat ≤ 0xFFE := by decide

theorem witness_StepRunsTheDecodedInstruction :
    ({ State.reset with pc := 0xFFE }.withFetchWord 16 0xD12F).pc.toNat ≤ 0xFFE ∧
    decodeBytes [({ State.reset with pc := 0xFFE }.withFetchWord 16 0xD12F).byte 0xFFE,
      ({ State.reset with pc := 0xFFE }.withFetchWord 16 0xD12F).byte 0xFFF] = .ok (.drw 1 2 15, []) := by decide

theorem witness_DecodeMissOnlyAdvancesPc :
    (State.reset.withFetchWord 16 0x5121).pc.toNat ≤ 0xFFE ∧
    (0x5121 : Word).toNat = ((State.reset.withFetchWord 16 0x5121).byte 0x200).toNat * 256
      + ((State.reset.withFetchWord 16 0x5121).byte 0x201).toNat ∧
    isDecodeMiss 0x5121 = true := by decide

theorem witness_FetchOutsideMemoryIsOutOfBounds :
    0xFFF ≤ ({ State.reset with pc := 0xFFF } : State).pc.toNat ∧
    0xFFF ≤ ({ State.reset with pc := 0x10FE } : State).pc.toNat := by decide

theorem witness_HostTurnIsTheScheduledOneOrFree :
    (State.reset.plan quiet).schedule = quiet :: [] ∧ State.reset.schedule = [] := by decide

theorem witness_HostTickDecrementsNonzeroTimers :
    0 < ({ State.reset with dt := 1 } : State).dt.toNat ∧ State.reset.dt.toNat = 0 ∧
    0 < ({ State.reset with st := 1 } : State).st.toNat ∧ State.reset.st.toNat = 0 := by decide

theorem witness_StoredOpcodeIsFetched :
    (State.reset.withFetchWord 16 0x6105).mem.wf = true ∧
    (State.reset.withFetchWord 16 0x6105).pc.toNat ≤ 0xFFE := by decide

theorem witness_LoadGivesTheResetValues :
    (List.replicate 3584 (0 : Byte)).length ≤ 3584 ∧ ([] : List Byte).length ≤ 3584 := by
  rw [List.length_replicate]
  decide

theorem witness_OversizeRomIsRefusedAtLoad :
    3584 < (List.replicate 3585 (0 : Byte)).length ∧ (List.replicate 3584 (0 : Byte)).length = 3584 := by
  rw [List.length_replicate, List.length_replicate]
  decide

theorem witness_RestartSatisfiesTheInvariant : ∃ t, State.reset.restart [0x12, 0x00] = .next t := ⟨_, rfl⟩

theorem witness_StepKeepsTheInvariant : State.reset.Inv ∧ ∃ t, step State.reset = .next t := by
  refine ⟨by decide, ?_⟩
  have h : ∃ t, step State.reset = .next t := ⟨_, rfl⟩
  exact h

theorem witness_ReachableStatesSatisfyTheInvariant : Reachable State.reset := .load [] _ rfl

theorem witness_CanonicalMemoriesThatReadAlikeAreEqual :
    Memory.wf [((0x300 : Nat), (7 : Byte))] = true ∧ Memory.wf (Memory.write [] 0x300 7) = true ∧
    ∀ a, a ≤ 0xFFF → Memory.read [((0x300 : Nat), (7 : Byte))] a = (Memory.write [] 0x300 7).read a :=
  ⟨by decide, by decide, fun _ _ => rfl⟩

theorem witness_ReturnPopsTheStack :
    State.reset.sp = 0 ∧ ({ State.reset with sp := 1 } : State).sp.val = (0 : Fin 16).val + 1 ∧
    ({ State.reset with sp := 16 } : State).sp.val = (15 : Fin 16).val + 1 := by decide

theorem witness_CallPushesTheReturnAddress :
    ({ State.reset with sp := 16 } : State).sp = 16 ∧ State.reset.sp.val = (0 : Fin 16).val ∧
    ({ State.reset with sp := 15 } : State).sp.val = (15 : Fin 16).val := by decide

theorem witness_ImmediateSkipsCompareVxWithNn : State.reset.reg 3 = 0 ∧ ¬State.reset.reg 3 = 1 := by decide

theorem witness_RegisterSkipsCompareVxWithVy :
    0 < 15 ∧ 15 ≤ 15 ∧ State.reset.reg 1 = State.reset.reg 2 ∧
    ¬(withRegs [(1, 7)] State.reset).reg 1 = (withRegs [(1, 7)] State.reset).reg 2 := by decide

theorem witness_ReturnAfterCallComesBack :
    ∃ t, exec (.call 0x300) { State.reset with sp := 15 } = .next t := ⟨_, rfl⟩

theorem witness_ShiftsSetTheBitShiftedOut : { params with shiftSource := .vy }.shiftSource = ShiftSource.vy := rfl

theorem witness_AddToIndexMasksTheSum :
    { params with fx1eSetsVf := true }.fx1eSetsVf = true ∧ { params with fx1eSetsVf := true }.iMask12 = true := by
  decide

theorem witness_BcdStoresThreeDigits :
    ({ State.reset with i := 0xFFD } : State).mem.wf = true ∧
    ({ State.reset with i := 0xFFD } : State).i.toNat + 2 ≤ 0xFFF ∧
    0xFFE ≤ ({ State.reset with i := 0xFFE } : State).i.toNat ∧
    ({ State.reset with i := 0xFFE } : State).i.toNat ≤ 0xFFF := by decide

theorem witness_BcdDigitsReconstructVx :
    State.reset.mem.wf = true ∧ ∃ t, exec (.ldB 1) State.reset = .next t := ⟨by decide, _, rfl⟩

theorem witness_RegisterDumpStoresV0ToVx :
    ({ State.reset with i := 0xFF0 } : State).mem.wf = true ∧
    ({ State.reset with i := 0xFF0 } : State).i.toNat + (15 : RegIndex).val ≤ 0xFFF ∧
    0xFFF < ({ State.reset with i := 0xFFF } : State).i.toNat + (1 : RegIndex).val ∧
    ({ State.reset with i := 0xFFF } : State).i.toNat ≤ 0xFFF := by decide

theorem witness_RegisterLoadReadsV0ToVx :
    ({ State.reset with i := 0xFF0 } : State).i.toNat + (15 : RegIndex).val ≤ 0xFFF ∧
    0xFFF < ({ State.reset with i := 0xFF1 } : State).i.toNat + (15 : RegIndex).val ∧
    ({ State.reset with i := 0xFF1 } : State).i.toNat ≤ 0xFFF := by decide

theorem witness_LoadAfterDumpRestoresTheRegisters :
    State.reset.mem.wf = true ∧ ∃ t, exec (.stRegs 2) { State.reset with i := 0x400 } = .next t :=
  ⟨by decide, _, rfl⟩

theorem witness_PixelsOfASpriteNeverMeet :
    place .wrap 63 31 7 14 = some ⟨6, 13⟩ ∧ place .clip 0 0 7 14 = some ⟨7, 14⟩ := by decide

theorem witness_DrawXorsTheSpriteAndReportsCollision :
    (0 = 0 ∨ State.reset.i.toNat + 0 - 1 ≤ 0xFFF) ∧
    (15 = 0 ∨ ({ State.reset with i := 0xFF1 } : State).i.toNat + 15 - 1 ≤ 0xFFF) ∧
    0 < 15 ∧ 0xFFF < ({ State.reset with i := 0xFF2 } : State).i.toNat + 15 - 1 ∧
    ({ State.reset with i := 0xFF2 } : State).i.toNat ≤ 0xFFF := by decide

/-- Glyph 0 drawn at (V0, V1) collides with nothing and sets cells: every clause of a draw has a case. -/
theorem witness_draws :
    spriteSets .clip State.reset 0 1 5 ⟨0, 0⟩ ∧ State.reset.display.get ⟨0, 0⟩ = false :=
  ⟨⟨0, 0, by decide, by decide, by decide, by decide, by decide⟩, by decide⟩

theorem witness_DrawingTwiceRestoresTheDisplay :
    5 ≤ 15 ∧ (0 : RegIndex) ≠ 15 ∧ (1 : RegIndex) ≠ 15 ∧
    ∃ t, drwWith params 0 1 5 State.reset = .next t := ⟨by decide, by decide, by decide, _, rfl⟩

theorem witness_KeySkipsTestTheKeyOfVx :
    ((withRegs [(2, 0x15)] State.reset).reg 2).toNat % 16 = (5 : Fin 16).val ∧
    ((pressing [5]).keys[(5 : Fin 16)] = true) ∧ quiet.keys[(5 : Fin 16)] = false := by decide

theorem witness_WaitForKeyTakesTheLowestOrWaits :
    ((pressing [3, 7]).keys[(3 : Fin 16)] = true ∧ ∀ j : Fin 16, j < 3 → (pressing [3, 7]).keys[j] = false) ∧
    ∀ k : Fin 16, State.reset.keys[k] = false := by decide

theorem witness_WaitingForAKeyChangesNothing :
    (start quiet 0 [] 0xF50A).pc.toNat ≤ 0xFFE ∧
    decodeBytes [(start quiet 0 [] 0xF50A).byte 0x200, (start quiet 0 [] 0xF50A).byte 0x201]
      = .ok (.ldVxK 5, []) ∧
    ∀ k : Fin 16, (start quiet 0 [] 0xF50A).hostTurn.keys[k] = false := by decide

/-- FX1E meets the hypothesis of every clause but I's. -/
theorem witness_OnlyNamedInstructionsWriteEachPart :
    (∃ t, exec (.addI 3) State.reset = .next t) ∧ (∀ k, ¬mayWriteReg (.addI 3) k) ∧ ¬mayChangePc (.addI 3) ∧
    (∀ x, Instr.addI 3 ≠ .ldVxK x) := by
  refine ⟨⟨_, rfl⟩, fun k => ?_, ?_, fun x => ?_⟩ <;> simp [mayWriteReg, mayChangePc, writesFlag]

/-- A load of V0 to V3 leaves V4 alone, and a load of VE leaves VF and I alone. -/
theorem witness_OnlyNamedInstructionsWriteEachPart_at_the_boundary :
    (∃ t, exec (.ldRegs 3) State.reset = .next t) ∧ ¬mayWriteReg (.ldRegs 3) 4 ∧
    (∃ t, exec (.ldImm 14 5) State.reset = .next t) ∧ ¬mayWriteReg (.ldImm 14 5) 15 ∧
    (∀ nnn, Instr.ldImm 14 5 ≠ .ldI nnn) ∧
    ∀ x, Instr.ldImm 14 5 ≠ .addI x ∧ Instr.ldImm 14 5 ≠ .ldF x ∧ Instr.ldImm 14 5 ≠ .stRegs x ∧
      Instr.ldImm 14 5 ≠ .ldRegs x := by
  refine ⟨⟨_, rfl⟩, ?_, ⟨_, rfl⟩, ?_, ?_, ?_⟩ <;> simp [mayWriteReg, writesFlag]

theorem witness_VfChangesOnlyAsFlagOrDestination :
    ∃ t, exec (.subReg 1 2) State.reset = .next t ∧ t.reg 15 ≠ State.reset.reg 15 := ⟨_, rfl, by decide⟩

theorem witness_OnlyFourInstructionsReadTheInputs :
    (∀ x nn, Instr.ldB 1 ≠ .rnd x nn) ∧
    (∀ x, Instr.ldB 1 ≠ .skp x ∧ Instr.ldB 1 ≠ .sknp x ∧ Instr.ldB 1 ≠ .ldVxK x) := by
  constructor <;> simp

theorem witness_StaleStackEntriesAreNeverRead :
    sameButStale { State.reset with sp := 1 }
      { State.reset with sp := 1, stack := (Vector.replicate 16 0).set 1 0x206 } :=
  ⟨rfl, by decide⟩

theorem witness_AnErrorRecursWhateverTheHostDoes :
    step { State.reset with pc := 0xFFF } = .fault (.outOfBounds 0x1000) ∧
    ({ State.reset with pc := 0xFFF, dt := 3, rnd := 9, turn := 4 } : State) =
      { ({ State.reset with pc := 0xFFF } : State) with dt := 3, rnd := 9, turn := 4 } := ⟨rfl, rfl⟩

end Sys2Proof.Tests
end

section
/-! PROOFS. The statements of 10_state.md: the host's turn, reset and load, what a completed instruction can
have written, the invariant, and the stale entries of the call stack. -/

open Sys2Proof.Claims

namespace Sys2Proof.Machine

/-! ### The host's turn (R34 to R38) -/

theorem State.hostTurn_of_cons {s : State} {t : HostTurn} {rest : List HostTurn} (h : s.schedule = t :: rest) :
    s.hostTurn = t := by
  simp [State.hostTurn, h]

theorem State.hostTurn_of_nil {s : State} (h : s.schedule = []) :
    s.hostTurn = ⟨Config.freeTicks s.turn, Config.freeKeys s.turn, Config.freeRnd s.turn⟩ := by
  simp [State.hostTurn, h]

/-- Settles O10: in each case the host's turn is known, and so is what is left of the schedule. -/
theorem hostTurnIsTheScheduledOneOrFree : Obligations.HostTurnIsTheScheduledOneOrFree := by
  unfold Obligations.HostTurnIsTheScheduledOneOrFree
  refine ⟨fun s t rest h => ?_, fun s h => ?_⟩
  · rw [State.beginStep, State.hostTurn_of_cons h, h, List.tail_cons]
  · rw [State.beginStep, State.hostTurn_of_nil h, h, List.tail_nil]

/-- Settles O11, by induction on the number of ticks: one tick is a truncated subtraction of 1. -/
theorem ticksCountATimerDownToZero : Obligations.TicksCountATimerDownToZero := by
  unfold Obligations.TicksCountATimerDownToZero
  intro n
  induction n with
  | zero => exact fun t => rfl
  | succ n ih =>
    intro t
    rw [tickTimes, ih, tickTimer_toNat]
    omega

theorem tickTimer_of_zero {t : Byte} (h : t.toNat = 0) : tickTimer t = t := by
  simp [tickTimer, h]

/-- Settles O12: both timers follow `tickTimer`, and a tick writes no other field. -/
theorem hostTickDecrementsNonzeroTimers : Obligations.HostTickDecrementsNonzeroTimers := by
  unfold Obligations.HostTickDecrementsNonzeroTimers
  intro s
  exact ⟨fun _ => tickTimer_toNat s.dt, tickTimer_of_zero, fun _ => tickTimer_toNat s.st, tickTimer_of_zero, rfl⟩

/-! ### Reset and load (R40, R41) -/

/-- Everything a reload can do that leaves a state. -/
theorem State.restart_eq_next {s t : State} {rom : List Byte} :
    s.restart rom = .next t ↔ rom.length ≤ maxRomLength ∧
      { State.reset.storeBytes entryPoint rom with schedule := s.schedule, turn := s.turn } = t := by
  unfold State.restart
  split <;> simp_all

theorem load_of_length_le {rom : List Byte} (h : rom.length ≤ maxRomLength) :
    load rom = .next (State.reset.storeBytes entryPoint rom) :=
  State.restart_eq_next.mpr ⟨h, rfl⟩

/-- Memory after a load: the ROM from the entry point on, the reset contents elsewhere. -/
theorem byte_storeBytes_reset {rom : List Byte} (h : rom.length ≤ maxRomLength) (a : Nat) :
    (State.reset.storeBytes entryPoint rom).byte a =
      if h : entryPoint ≤ a ∧ a < entryPoint + rom.length then rom[a - entryPoint]'(by omega)
      else resetByte a :=
  Memory.read_store rom entryPoint a (by simp only [memorySize, entryPoint, maxRomLength] at *; omega) rfl

theorem byte_storeBytes_reset_outside {rom : List Byte} (h : rom.length ≤ maxRomLength) {a : Nat}
    (ha : a < entryPoint ∨ entryPoint + rom.length ≤ a) :
    (State.reset.storeBytes entryPoint rom).byte a = resetByte a := by
  rw [byte_storeBytes_reset h, dif_neg (by omega)]

theorem byte_storeBytes_reset_inside {rom : List Byte} (h : rom.length ≤ maxRomLength) {j : Nat}
    (hj : j < rom.length) :
    some ((State.reset.storeBytes entryPoint rom).byte (entryPoint + j)) = rom[j]? := by
  rw [byte_storeBytes_reset h, dif_pos (by omega)]
  simp [hj]

theorem resetByte_of_lt {a : Nat} (h : a < 80) : some (resetByte a) = params.font[a]? := by
  have : a < params.font.length := h
  simp [resetByte, this]

theorem resetByte_of_le {a : Nat} (h : 80 ≤ a) : resetByte a = 0 := by
  have : params.font.length ≤ a := h
  simp [resetByte, this]

theorem params_font_eq_fontOfR63 : params.font = fontOfR63 := by decide

@[simp] theorem State.reset_reg (x : RegIndex) : State.reset.reg x = 0 := by
  simp [State.reg, State.reset]

@[simp] theorem State.reset_stack (k : Fin 16) : State.reset.stack[k] = 0 := by
  simp [State.reset]

/-- Settles O14: the loaded state is the reset state with the ROM stored, so only memory is read anew. -/
theorem loadGivesTheResetValues : Obligations.LoadGivesTheResetValues := by
  unfold Obligations.LoadGivesTheResetValues
  intro rom h
  have font : ∀ a, a < 80 →
      some ((State.reset.storeBytes entryPoint rom).byte a) = params.font[a]? := fun a ha => by
    rw [byte_storeBytes_reset_outside h (.inl (by simp only [entryPoint]; omega)), resetByte_of_lt ha]
  refine ⟨State.reset.storeBytes entryPoint rom, load_of_length_le h, State.reset_reg, rfl, rfl,
    State.reset_stack, rfl, rfl, rfl, Display.get_clear, font, ?_, fun a hlo hhi => ?_,
    fun j hj => byte_storeBytes_reset_inside h hj, fun a hlo _ => ?_, ?_⟩
  · exact params_font_eq_fontOfR63 ▸ font
  · rw [byte_storeBytes_reset_outside h (.inl hhi), resetByte_of_le hlo]
  · rw [byte_storeBytes_reset_outside h (.inr hlo), resetByte_of_le (by omega)]
  · rintro rfl
    rfl

/-! ### What a completed instruction can have done -/

/-- `ExecEffect i s t`: `i` may write the parts of the state in which `t` differs from `s`. A value that no frame
rule and no clause of the invariant asks about (a register's, a timer's, the display's) is left open.
`exec_effect` ties the relation to `exec`. -/
inductive ExecEffect (i : Instr) (s : State) : State → Prop where
  | reg (x : RegIndex) (b : Byte) (hi : mayWriteReg i x) : ExecEffect i s ((s.setReg x b).setReport .ok)
  | regFlag (x : RegIndex) (b flag : Byte) (hi : mayWriteReg i x) (hf : writesFlag i) :
    ExecEffect i s ((s.setRegThenFlag x b flag).setReport .ok)
  | jump (w : Word) (hi : mayChangePc i) (hw : w.toNat ≤ 0x10FE) : ExecEffect i s ((s.setPc w).setReport .ok)
  | skip (c : Bool) (hi : mayChangePc i) :
    ExecEffect i s ((s.setPc (if c then s.pc + 2 else s.pc)).setReport .ok)
  | call (nnn : Addr) (hi : i = .call nnn) (hsp : s.sp.val < 16) :
    ExecEffect i s ((State.setPc { s with stack := s.stack.set s.sp.val s.pc, sp := ⟨s.sp.val + 1, by omega⟩ }
      (targetOf nnn)).setReport .ok)
  | ret (hi : i = .ret) (hsp : s.sp.val ≠ 0) :
    ExecEffect i s ((State.setPc { s with sp := ⟨s.sp.val - 1, by omega⟩ } s.stack[s.sp.val - 1]).setReport .ok)
  | rewind (x : RegIndex) (hi : i = .ldVxK x) : ExecEffect i s ((s.setPc (s.pc - 2)).setReport .awaitingKey)
  | index (n : Nat) (hi : (∃ nnn, i = .ldI nnn) ∨ ∃ x, i = .addI x ∨ i = .ldF x) :
    ExecEffect i s ((s.setIndex params n).setReport .ok)
  | clear (hi : i = .cls) : ExecEffect i s ((s.setDisplay Display.clear).setReport .ok)
  | draw (x y : RegIndex) (n : Nat) (d : Display) (flag : Byte) (hi : i = .drw x y n) :
    ExecEffect i s (((s.setDisplay d).setReg vf flag).setReport .ok)
  | bcd (x : RegIndex) (a : Nat) (bytes : List Byte) (hi : i = .ldB x) :
    ExecEffect i s ((s.storeBytes a bytes).setReport .ok)
  | dump (x : RegIndex) (a n : Nat) (bytes : List Byte) (hi : i = .stRegs x) :
    ExecEffect i s (((s.storeBytes a bytes).setIndex params n).setReport .ok)
  | fill (x : RegIndex) (a n : Nat) (hi : i = .ldRegs x) :
    ExecEffect i s (((s.loadRegsUpTo x a).setIndex params n).setReport .ok)
  | delay (x : RegIndex) (b : Byte) (hi : i = .ldDtVx x) : ExecEffect i s ((s.setDt b).setReport .ok)
  | sound (x : RegIndex) (b : Byte) (hi : i = .ldStVx x) : ExecEffect i s ((s.setSt b).setReport .ok)

section
variable {i : Instr} {s t u : State}

theorem execEffect_of_complete (h : complete u = .next t) (hu : ExecEffect i s (u.setReport .ok)) :
    ExecEffect i s t :=
  complete_eq_next.mp h ▸ hu

theorem execEffect_of_completeInBounds {base len : Nat} (h : completeInBounds base len u = .next t)
    (hu : ExecEffect i s (u.setReport .ok)) : ExecEffect i s t :=
  (completeInBounds_eq_next.mp h).2 ▸ hu

theorem targetOf_toNat (nnn : Addr) : (targetOf nnn).toNat = nnn.toNat := by
  have := nnn.isLt
  simp only [targetOf, BitVec.zeroExtend, BitVec.toNat_setWidth]
  omega

theorem offsetTarget_toNat (nnn : Addr) (v0 : Byte) : (offsetTarget nnn v0).toNat = nnn.toNat + v0.toNat := by
  have := nnn.isLt
  have := v0.isLt
  simp only [offsetTarget, BitVec.toNat_ofNat]
  omega

theorem targetOf_le (nnn : Addr) : (targetOf nnn).toNat ≤ 0x10FE := by
  have := nnn.isLt
  rw [targetOf_toNat]
  omega

/-- `BNNN` reaches at most 0xFFF + 0xFF (R24). -/
theorem offsetTarget_le (nnn : Addr) (v0 : Byte) : (offsetTarget nnn v0).toNat ≤ 0x10FE := by
  have := nnn.isLt
  have := v0.isLt
  rw [offsetTarget_toNat]
  omega

theorem execRet_of_sp_eq_zero (h : s.sp = 0) : execRet s = raiseError .stackUnderflow := by
  rw [execRet, State.pop_eq_none.mpr h]

/-- With an entry in use `RET` goes to the topmost one and keeps it in the stack (R141). -/
theorem execRet_of_sp_ne_zero (h : s.sp.val ≠ 0) :
    execRet s = complete
      (State.setPc { s with sp := ⟨s.sp.val - 1, by omega⟩ } (s.stack[s.sp.val - 1]'(by omega))) := by
  rw [execRet, State.pop_eq_some.mpr ⟨h, rfl, rfl⟩]

theorem execCall_of_sp_eq_max (nnn : Addr) (h : s.sp = 16) : execCall nnn s = raiseError .stackOverflow := by
  rw [execCall, State.push_eq_none.mpr h]

/-- With an entry free `CALL` puts PC there and goes to its target (R143). -/
theorem execCall_of_sp_lt (nnn : Addr) (h : s.sp.val < 16) :
    execCall nnn s = complete
      (State.setPc { s with stack := s.stack.set s.sp.val s.pc, sp := ⟨s.sp.val + 1, by omega⟩ }
        (targetOf nnn)) := by
  rw [execCall, State.push_eq_some.mpr ⟨h, rfl⟩]

theorem execEffect_ret (h : execRet s = .next t) : ExecEffect .ret s t := by
  by_cases hsp : s.sp = 0
  · exact absurd (execRet_of_sp_eq_zero hsp ▸ h) raiseError_ne_next
  · have hne : s.sp.val ≠ 0 := fun e => hsp (Fin.ext e)
    exact execEffect_of_complete (execRet_of_sp_ne_zero hne ▸ h) (.ret rfl hne)

theorem execEffect_call {nnn : Addr} (h : execCall nnn s = .next t) : ExecEffect (.call nnn) s t := by
  by_cases hsp : s.sp.val < 16
  · exact execEffect_of_complete (execCall_of_sp_lt nnn hsp ▸ h) (.call nnn rfl hsp)
  · have hmax : s.sp = 16 := Fin.ext (by simp; omega)
    exact absurd (execCall_of_sp_eq_max nnn hmax ▸ h) raiseError_ne_next

theorem execEffect_ldVxK {x : RegIndex} (h : exec (.ldVxK x) s = .next t) : ExecEffect (.ldVxK x) s t := by
  simp only [exec, execLdVxK, awaitKey, Host.Outcome.next.injEq] at h
  subst h
  split
  · exact .reg x _ (by simp [mayWriteReg])
  · exact .rewind x rfl

/-- Every way in which an instruction completes, with the state it leaves. -/
theorem exec_effect (h : exec i s = .next t) : ExecEffect i s t := by
  cases i with
  | cls => exact execEffect_of_complete h (.clear rfl)
  | ret => exact execEffect_ret h
  | jp nnn => exact execEffect_of_complete h (.jump _ (by simp [mayChangePc]) (targetOf_le nnn))
  | call nnn => exact execEffect_call h
  | jpV0 nnn => exact execEffect_of_complete h (.jump _ (by simp [mayChangePc]) (offsetTarget_le nnn _))
  | seImm x _ | sneImm x _ | seReg x _ | sneReg x _ | skp x | sknp x =>
    exact execEffect_of_complete h (.skip _ (by simp [mayChangePc]))
  | ldImm x _ | addImm x _ | rnd x _ | ldReg x _ | orReg x _ | andReg x _ | xorReg x _ | ldVxDt x =>
    exact execEffect_of_complete h (.reg x _ (by simp [mayWriteReg]))
  | addReg x _ | subReg x _ | subnReg x _ | shr x _ | shl x _ =>
    exact execEffect_of_complete h (.regFlag x _ _ (by simp [mayWriteReg]) (by simp [writesFlag]))
  | ldVxK x => exact execEffect_ldVxK h
  | ldDtVx x => exact execEffect_of_complete h (.delay x _ rfl)
  | ldStVx x => exact execEffect_of_complete h (.sound x _ rfl)
  | ldI _ | addI _ | ldF _ => exact execEffect_of_complete h (.index _ (by simp))
  | drw x y n => exact execEffect_of_completeInBounds h (.draw x y n _ _ rfl)
  | ldB x => exact execEffect_of_completeInBounds h (.bcd x _ _ rfl)
  | stRegs x => exact execEffect_of_completeInBounds h (.dump x _ _ _ rfl)
  | ldRegs x => exact execEffect_of_completeInBounds h (.fill x _ _ rfl)

/-! ### Who writes each part (R21 to R29) -/

@[simp] theorem State.reg_setReport (r : Report) (k : RegIndex) : (s.setReport r).reg k = s.reg k := rfl

@[simp] theorem State.reg_setDisplay (d : Display) (k : RegIndex) : (s.setDisplay d).reg k = s.reg k := rfl

@[simp] theorem State.reg_setIndex (cfg : Config) (n : Nat) (k : RegIndex) :
    (s.setIndex cfg n).reg k = s.reg k := rfl

theorem exec_reg (h : exec i s = .next t) {k : RegIndex} (hi : ¬mayWriteReg i k) : t.reg k = s.reg k := by
  have notFlag : writesFlag i → k ≠ vf := by
    rintro hf rfl
    exact hi (by simp [mayWriteReg, hf])
  cases exec_effect h with
  | reg x b hx =>
    have hk : k ≠ x := fun e => hi (e ▸ hx)
    rw [State.reg_setReport, State.reg_setReg, if_neg hk]
  | regFlag x b flag hx hf =>
    have hk : k ≠ x := fun e => hi (e ▸ hx)
    rw [State.reg_setReport, State.reg_setRegThenFlag, if_neg (notFlag hf), if_neg hk]
  | draw x y n d flag e =>
    have hf : writesFlag i := .inr ⟨x, y, n, e⟩
    rw [State.reg_setReport, State.reg_setReg, if_neg (notFlag hf), State.reg_setDisplay]
  | fill x a n e =>
    have hk : ¬k ≤ x := fun hk => hi (by simp [mayWriteReg, e, hk])
    rw [State.reg_setReport, State.reg_setIndex, State.reg_loadRegsUpTo, if_neg hk]
  | _ => exact State.reg_congr (by simp) k

theorem exec_pc (h : exec i s = .next t) (hi : ¬mayChangePc i) : t.pc = s.pc := by
  cases exec_effect h with
  | jump _ e _ => exact absurd e hi
  | skip _ e => exact absurd e hi
  | call nnn e _ => exact absurd (by simp [mayChangePc, e]) hi
  | ret e _ => exact absurd (by simp [mayChangePc, e]) hi
  | rewind x e => exact absurd (by simp [mayChangePc, e]) hi
  | _ => simp

theorem exec_display (h : exec i s = .next t) (hi : i ≠ .cls ∧ ∀ x y n, i ≠ .drw x y n) :
    t.display = s.display := by
  cases exec_effect h with
  | clear e => exact absurd e hi.1
  | draw x y n _ _ e => exact absurd e (hi.2 x y n)
  | _ => simp

theorem exec_mem (h : exec i s = .next t) (hi : ∀ x, i ≠ .ldB x ∧ i ≠ .stRegs x) : t.mem = s.mem := by
  cases exec_effect h with
  | bcd x _ _ e => exact absurd e (hi x).1
  | dump x _ _ _ e => exact absurd e (hi x).2
  | _ => simp

theorem exec_dt (h : exec i s = .next t) (hi : ∀ x, i ≠ .ldDtVx x) : t.dt = s.dt := by
  cases exec_effect h with
  | delay x _ e => exact absurd e (hi x)
  | _ => simp

theorem exec_st (h : exec i s = .next t) (hi : ∀ x, i ≠ .ldStVx x) : t.st = s.st := by
  cases exec_effect h with
  | sound x _ e => exact absurd e (hi x)
  | _ => simp

theorem exec_stack (h : exec i s = .next t) (hi : ∀ nnn, i ≠ .call nnn) : t.stack = s.stack := by
  cases exec_effect h with
  | call nnn e _ => exact absurd e (hi nnn)
  | _ => simp

theorem exec_sp (h : exec i s = .next t) (hi : i ≠ .ret ∧ ∀ nnn, i ≠ .call nnn) : t.sp = s.sp := by
  cases exec_effect h with
  | ret e _ => exact absurd e hi.1
  | call nnn e _ => exact absurd e (hi.2 nnn)
  | _ => simp

theorem exec_index (h : exec i s = .next t)
    (hi : (∀ nnn, i ≠ .ldI nnn) ∧ ∀ x, i ≠ .addI x ∧ i ≠ .ldF x ∧ i ≠ .stRegs x ∧ i ≠ .ldRegs x) :
    t.i = s.i := by
  obtain ⟨notLdI, notOther⟩ := hi
  cases exec_effect h with
  | index _ e =>
    obtain ⟨nnn, e⟩ | ⟨x, e⟩ := e
    · exact absurd e (notLdI nnn)
    · obtain ⟨notAddI, notLdF, -⟩ := notOther x
      exact (e.elim notAddI notLdF).elim
  | dump x _ _ _ e =>
    obtain ⟨-, -, notStRegs, -⟩ := notOther x
    exact absurd e notStRegs
  | fill x _ _ e =>
    obtain ⟨-, -, -, notLdRegs⟩ := notOther x
    exact absurd e notLdRegs
  | _ => simp

theorem exec_report (h : exec i s = .next t) (hi : ∀ x, i ≠ .ldVxK x) : t.report = .ok := by
  cases exec_effect h with
  | rewind x e => exact absurd e (hi x)
  | _ => simp

/-- No instruction writes an input of the step or the host's schedule. -/
theorem exec_inputs (h : exec i s = .next t) :
    t.keys = s.keys ∧ t.rnd = s.rnd ∧ t.schedule = s.schedule ∧ t.turn = s.turn := by
  cases exec_effect h with
  | _ => simp

end

/-- Settles O56, one lemma for each part. -/
theorem onlyNamedInstructionsWriteEachPart : Obligations.OnlyNamedInstructionsWriteEachPart := by
  unfold Obligations.OnlyNamedInstructionsWriteEachPart
  intro i s t h
  exact ⟨fun _ => exec_reg h, exec_pc h, exec_display h, exec_mem h, exec_dt h, exec_st h, exec_stack h,
    exec_sp h, exec_index h, exec_report h, exec_inputs h⟩

/-- Settles O57: a changed VF may be written, and the only `FX65` that reaches VF has X = F. -/
theorem vfChangesOnlyAsFlagOrDestination : Obligations.VfChangesOnlyAsFlagOrDestination := by
  unfold Obligations.VfChangesOnlyAsFlagOrDestination
  intro i s t h hne
  have hw : mayWriteReg i 15 := by
    by_contra hi
    exact hne (exec_reg h hi)
  obtain hImm | ⟨y, hReg⟩ | hDt | hK | ⟨x, hx, rfl⟩ | ⟨-, hFlag | hDrw⟩ := hw
  · exact .inr (.inr (.inl hImm))
  · obtain e | e | e | e | e | e | e | e | e := hReg <;> simp [e]
  · simp [hDt]
  · simp [hK]
  · obtain rfl : x = 15 := le_antisymm (Fin.le_last x) hx
    simp
  · exact .inl hFlag
  · exact .inr (.inl hDrw)

/-! ### The invariant -/

section
variable {s : State}

theorem State.Inv.setReport (hs : s.Inv) (r : Report) : (s.setReport r).Inv := hs

theorem State.Inv.setIndex (hs : s.Inv) (n : Nat) : (s.setIndex params n).Inv := by
  obtain ⟨hmem, -, hstk, hpc⟩ := hs
  exact ⟨hmem, indexValue_toNat_le params_iMask12 n, hstk, hpc⟩

theorem State.Inv.storeBytes (hs : s.Inv) (a : Nat) (bytes : List Byte) : (s.storeBytes a bytes).Inv := by
  obtain ⟨hmem, hidx, hstk, hpc⟩ := hs
  exact ⟨Memory.store_wf bytes a hmem, hidx, hstk, hpc⟩

theorem State.Inv.loadRegsUpTo (hs : s.Inv) (x : RegIndex) (a : Nat) : (s.loadRegsUpTo x a).Inv := by
  simpa only [State.Inv, State.loadRegsUpTo_mem, State.loadRegsUpTo_i, State.loadRegsUpTo_stack,
    State.loadRegsUpTo_pc] using hs

end

/-- Settles O16. -/
theorem resetSatisfiesTheInvariant : Obligations.ResetSatisfiesTheInvariant := by
  unfold Obligations.ResetSatisfiesTheInvariant
  exact ⟨rfl, by decide, by decide, by decide⟩

/-- Settles O17: a reload is the reset state but for memory and the host's fields, and a store keeps the
canonical form. -/
theorem restartSatisfiesTheInvariant : Obligations.RestartSatisfiesTheInvariant := by
  unfold Obligations.RestartSatisfiesTheInvariant
  intro s t rom h
  obtain ⟨-, rfl⟩ := State.restart_eq_next.mp h
  exact State.Inv.storeBytes resetSatisfiesTheInvariant entryPoint rom

/-- The PC after the advance, when an opcode can be fetched (R122). -/
theorem advancePc_toNat {w : Word} (h : inBounds w.toNat 2 = true) :
    (w + 2).toNat = w.toNat + 2 ∧ w.toNat + 2 ≤ 0x1000 := by
  have := (inBounds_iff _ _).mp h
  bv_omega

/-- An instruction keeps the invariant when PC is one that a fetch leaves: 2 to 0x1000. -/
theorem exec_keeps_inv {i : Instr} {s t : State} (hs : s.Inv) (hlo : 2 ≤ s.pc.toNat) (hhi : s.pc.toNat ≤ 0x1000)
    (h : exec i s = .next t) : t.Inv := by
  have ⟨hmem, hidx, hstk, hpc⟩ := hs
  cases exec_effect h with
  | jump _ _ hw => exact ⟨hmem, hidx, hstk, hw⟩
  | skip c _ =>
    refine ⟨hmem, hidx, hstk, ?_⟩
    cases c
    · exact hpc
    · simp only [State.setReport_pc, State.setPc_pc, if_true]
      bv_omega
  | call nnn _ hsp =>
    refine ⟨hmem, hidx, fun k => ?_, targetOf_le nnn⟩
    simp only [State.setReport_stack, State.setPc_stack, Fin.getElem_fin, Vector.getElem_set]
    split
    · exact hhi
    · exact hstk k
  | ret _ _ => exact ⟨hmem, hidx, hstk, (hstk ⟨s.sp.val - 1, by omega⟩).trans (by decide)⟩
  | rewind _ _ =>
    refine ⟨hmem, hidx, hstk, ?_⟩
    simp only [State.setReport_pc, State.setPc_pc]
    bv_omega
  | index n _ => exact (hs.setIndex n).setReport .ok
  | fill x a n _ => exact ((hs.loadRegsUpTo x a).setIndex n).setReport .ok
  | dump _ a n bytes _ => exact ((hs.storeBytes a bytes).setIndex n).setReport .ok
  | bcd _ a bytes _ => exact (hs.storeBytes a bytes).setReport .ok
  | _ => exact ⟨hmem, hidx, hstk, hpc⟩

/-- Settles O18: a fetch leaves PC between 2 and 0x1000, and from there an instruction or a decode-miss keeps
the invariant. -/
theorem stepKeepsTheInvariant : Obligations.StepKeepsTheInvariant := by
  unfold Obligations.StepKeepsTheInvariant
  intro s t hs h
  obtain ⟨hmem, hidx, hstk, -⟩ := hs
  have advanced : inBounds s.pc.toNat 2 = true → s.beginStep.advance.Inv := fun hb => by
    obtain ⟨hpc, hle⟩ := advancePc_toNat hb
    have hpc' : (s.pc + 2).toNat ≤ 0x10FE := by omega
    exact ⟨hmem, hidx, hstk, hpc'⟩
  obtain ⟨i, hb, -, hexec⟩ | ⟨e, hb, -, rfl⟩ := step_cases h
  · obtain ⟨hpc, hle⟩ := advancePc_toNat hb
    have hlo : 2 ≤ (s.pc + 2).toNat := by omega
    have hhi : (s.pc + 2).toNat ≤ 0x1000 := by omega
    exact exec_keeps_inv (advanced hb) hlo hhi hexec
  · exact advanced hb

/-- Settles O19, by induction on how the state is reached. -/
theorem reachableStatesSatisfyTheInvariant : Obligations.ReachableStatesSatisfyTheInvariant := by
  unfold Obligations.ReachableStatesSatisfyTheInvariant
  intro s h
  induction h with
  | load rom s h => exact restartSatisfiesTheInvariant _ s rom h
  | restart s s' rom _ h _ => exact restartSatisfiesTheInvariant s s' rom h
  | plan s t _ ih => exact ih
  | step s s' _ h ih => exact stepKeepsTheInvariant s s' ih h

/-! ### Stale stack entries (R25, R26) -/

theorem sameResult_completeInBounds {rel : State → State → Prop} {t u : State} {base len : Nat}
    (h : rel (t.setReport .ok) (u.setReport .ok)) :
    sameResult rel (completeInBounds base len t) (completeInBounds base len u) := by
  unfold completeInBounds
  split
  · exact h
  · rfl

section
variable {s : State} {w : Vector Word 16} (hw : ∀ k : Fin 16, k.val < s.sp.val → w[k] = s.stack[k])
include hw

/-- `RET` reads the one entry below SP, which is in use. -/
theorem execRet_sameButStale :
    sameResult sameButStale (execRet s) (execRet { s with stack := w }) := by
  by_cases hsp : s.sp.val = 0
  · have hzero : s.sp = 0 := Fin.ext hsp
    rw [execRet_of_sp_eq_zero hzero, execRet_of_sp_eq_zero (s := { s with stack := w }) hzero]
    rfl
  · have top : w[s.sp.val - 1] = s.stack[s.sp.val - 1] := hw ⟨s.sp.val - 1, by omega⟩ (by simp only; omega)
    rw [execRet_of_sp_ne_zero hsp, execRet_of_sp_ne_zero (s := { s with stack := w }) hsp, top]
    exact ⟨rfl, fun k hk => hw k (by simp only [State.setReport_sp, State.setPc_sp] at hk; omega)⟩

/-- `CALL` writes the entry at SP before it counts it as in use. -/
theorem execCall_sameButStale (nnn : Addr) :
    sameResult sameButStale (execCall nnn s) (execCall nnn { s with stack := w }) := by
  by_cases hsp : s.sp.val < 16
  · rw [execCall_of_sp_lt nnn hsp, execCall_of_sp_lt nnn (s := { s with stack := w }) hsp]
    refine ⟨rfl, fun k hk => ?_⟩
    simp only [State.setReport_sp, State.setPc_sp] at hk
    simp only [State.setReport_stack, State.setPc_stack, Fin.getElem_fin, Vector.getElem_set]
    split
    · rfl
    · exact hw k (by omega)
  · have hmax : s.sp = 16 := Fin.ext (by simp; omega)
    rw [execCall_of_sp_eq_max nnn hmax, execCall_of_sp_eq_max nnn (s := { s with stack := w }) hmax]
    rfl

/-- No other instruction reads or writes an entry. -/
theorem exec_sameButStale (i : Instr) :
    sameResult sameButStale (exec i s) (exec i { s with stack := w }) := by
  cases i with
  | ret => exact execRet_sameButStale hw
  | call nnn => exact execCall_sameButStale hw nnn
  | drw x y n => exact sameResult_completeInBounds ⟨rfl, hw⟩
  | ldB x | stRegs x => exact sameResult_completeInBounds ⟨rfl, hw⟩
  | ldRegs x =>
    refine sameResult_completeInBounds ⟨rfl, fun k hk => ?_⟩
    simpa using hw k (by simpa using hk)
  | ldVxK x =>
    simp only [exec, execLdVxK, awaitKey]
    split <;> exact ⟨rfl, hw⟩
  | _ => exact ⟨rfl, hw⟩

theorem cycle_sameButStale :
    sameResult sameButStale (cycle s) (cycle { s with stack := w }) := by
  have hf : fetch { s with stack := w } = fetch s := rfl
  simp only [cycle, hf]
  cases fetch s with
  | error f => rfl
  | ok op =>
    dsimp only
    cases decodeWord op with
    | ok i => exact exec_sameButStale (s := s.advance) hw i
    | error e => exact ⟨rfl, hw⟩

end

/-- Settles O59: the host's turn and the fetch do not see the stack, and of the instructions only `RET` reads
it, below SP. -/
theorem staleStackEntriesAreNeverRead : Obligations.StaleStackEntriesAreNeverRead := by
  unfold Obligations.StaleStackEntriesAreNeverRead
  rintro s t ⟨ht, hw⟩
  rw [ht]
  exact cycle_sameButStale (s := s.beginStep) hw

end Sys2Proof.Machine
end

section
/-! PROOFS. The statements of 20_memory.md: the byte order of a fetch, its coherence with stores, and the
canonical form of memory. -/

namespace Sys2Proof.Machine

/-! ### Fetch and byte order (R65, R121) -/

/-- An opcode at or below 0xFFE lies in memory. -/
theorem inBounds_two_of_le {a : Nat} (h : a ≤ 0xFFE) : inBounds a 2 = true :=
  (inBounds_iff a 2).mpr (.inr (by omega))

/-- Settles O6: the opcode fetched is the join of the two bytes, the first of them the high one. -/
theorem fetchReadsHighByteFirst : Obligations.FetchReadsHighByteFirst := by
  unfold Obligations.FetchReadsHighByteFirst
  intro s hpc
  exact ⟨s.mem.opcodeAt s.pc.toNat, fetch_eq_ok.mpr ⟨inBounds_two_of_le hpc, rfl⟩, joinBytes_toNat _ _,
    decodeBytes_pair _ _⟩

/-! ### Coherence of the fetch with stores (R73, R346) -/

theorem Memory.opcodeAt_store_opcodeBytes {m : Memory} {a : Nat} (op : Word) (hm : m.wf = true)
    (ha : a ≤ 0xFFE) : (m.store a (opcodeBytes op)).opcodeAt a = op := by
  have hlen : (opcodeBytes op).length = 2 := rfl
  have hfit : a + (opcodeBytes op).length ≤ memorySize := by simp only [hlen, memorySize]; omega
  have hhi : (m.store a (opcodeBytes op)).read a = BitVec.ofNat 8 (op.toNat / 256) := by
    rw [Memory.read_store _ a a hfit hm, dif_pos (by omega)]
    simp [opcodeBytes]
  have hlo : (m.store a (opcodeBytes op)).read (a + 1) = BitVec.ofNat 8 op.toNat := by
    rw [Memory.read_store _ a (a + 1) hfit hm, dif_pos (by omega)]
    simp [opcodeBytes]
  rw [Memory.opcodeAt, hhi, hlo, joinBytes_opcodeBytes]

/-- Settles O13: the fetch joins the two bytes that the store put at PC. -/
theorem storedOpcodeIsFetched : Obligations.StoredOpcodeIsFetched := by
  unfold Obligations.StoredOpcodeIsFetched
  intro s op hm hpc
  exact fetch_eq_ok.mpr ⟨inBounds_two_of_le hpc, Memory.opcodeAt_store_opcodeBytes op hm hpc⟩

/-! ### The canonical form determines memory (R60, R61) -/

theorem Memory.wfFrom_cons_iff {low a : Nat} {b : Byte} {m : Memory} :
    Memory.wfFrom low ((a, b) :: m) = true ↔
      low ≤ a ∧ a < memorySize ∧ b ≠ resetByte a ∧ m.wfFrom (a + 1) = true := by
  simp only [Memory.wfFrom, Bool.and_eq_true, decide_eq_true_eq, and_assoc]

theorem Memory.read_cons_self (a : Nat) (b : Byte) (m : Memory) : Memory.read ((a, b) :: m) a = b := by
  rw [Memory.read_cons, if_pos rfl]

/-- A listed cell says something that the reset contents do not. -/
theorem Memory.read_head_ne_resetByte {low a : Nat} {b : Byte} {m : Memory}
    (hm : Memory.wfFrom low ((a, b) :: m) = true) : Memory.read ((a, b) :: m) a ≠ resetByte a := by
  obtain ⟨-, -, hb, -⟩ := Memory.wfFrom_cons_iff.mp hm
  rwa [Memory.read_cons_self]

/-- A memory whose first cell lay above `a` would read the reset content there. -/
theorem Memory.head_le_of_read_eq {low low' a a' : Nat} {b b' : Byte} {m m' : Memory}
    (hm : Memory.wfFrom low ((a, b) :: m) = true) (hm' : Memory.wfFrom low' ((a', b') :: m') = true)
    (h : Memory.read ((a, b) :: m) a = Memory.read ((a', b') :: m') a) : a' ≤ a := by
  by_contra hlt
  obtain ⟨-, hrest⟩ := Memory.wfFrom_cons_iff.mp hm'
  have hfrom : Memory.wfFrom a' ((a', b') :: m') = true := Memory.wfFrom_cons_iff.mpr ⟨le_rfl, hrest⟩
  exact Memory.read_head_ne_resetByte hm (h.trans (Memory.read_of_lt (by omega) hfrom))

/-- Memories whose first cells lie at one address, and which read alike, have tails that read alike: a tail
reads the reset content at that address. -/
theorem Memory.tail_read_eq {a : Nat} {b b' : Byte} {m m' : Memory} (hm : m.wfFrom (a + 1) = true)
    (hm' : m'.wfFrom (a + 1) = true)
    (h : ∀ c, Memory.read ((a, b) :: m) c = Memory.read ((a, b') :: m') c) (c : Nat) :
    m.read c = m'.read c := by
  by_cases hc : c = a
  · rw [Memory.read_of_lt (low := a + 1) (by omega) hm, Memory.read_of_lt (low := a + 1) (by omega) hm']
  · simpa only [Memory.read_cons, if_neg hc] using h c

/-- Canonical memories that read alike at every number are equal, cell by cell. -/
theorem Memory.eq_of_read_eq : ∀ {low low' : Nat} {m m' : Memory}, m.wfFrom low = true →
    m'.wfFrom low' = true → (∀ a, m.read a = m'.read a) → m = m'
  | _, _, [], [], _, _, _ => rfl
  | _, _, [], (a, _) :: _, _, hm', h => absurd (h a).symm (Memory.read_head_ne_resetByte hm')
  | _, _, (a, _) :: _, [], hm, _, h => absurd (h a) (Memory.read_head_ne_resetByte hm)
  | _, _, (a, b) :: m, (a', b') :: m', hm, hm', h => by
    obtain rfl : a = a' :=
      le_antisymm (Memory.head_le_of_read_eq hm' hm (h a').symm) (Memory.head_le_of_read_eq hm hm' (h a))
    obtain rfl : b = b' := by simpa only [Memory.read_cons_self] using h a
    obtain ⟨-, -, -, hrest⟩ := Memory.wfFrom_cons_iff.mp hm
    obtain ⟨-, -, -, hrest'⟩ := Memory.wfFrom_cons_iff.mp hm'
    rw [Memory.eq_of_read_eq hrest hrest' (Memory.tail_read_eq hrest hrest' h)]

/-- Settles O20: above 0xFFF both read the reset contents, so they read alike everywhere. -/
theorem canonicalMemoriesThatReadAlikeAreEqual : Obligations.CanonicalMemoriesThatReadAlikeAreEqual := by
  unfold Obligations.CanonicalMemoriesThatReadAlikeAreEqual
  intro m m' hm hm' h
  refine Memory.eq_of_read_eq hm hm' fun a => ?_
  by_cases ha : a ≤ 0xFFF
  · exact h a ha
  · have hsize : memorySize ≤ a := by simp only [memorySize]; omega
    rw [Memory.read_of_size_le hsize hm, Memory.read_of_size_le hsize hm']

end Sys2Proof.Machine
end

section
/-! PROOFS. The statements of 30_encoding.md: the round trips of decoder and encoder, the decode-miss space and
its counts. -/

namespace Sys2Proof

/-! ### Decoding an encoded instruction (R91, R92, R93) -/

/-- Settles O1: format by format, the decoder reads back the fields that the encoder wrote. -/
theorem decodeOfEncodeGivesTheInstruction : Obligations.DecodeOfEncodeGivesTheInstruction := by
  unfold Obligations.DecodeOfEncodeGivesTheInstruction
  intro i hi
  cases i with
  | cls | ret => rfl
  | jp nnn | call nnn | ldI nnn | jpV0 nnn =>
    simp [encode, decodeWord, fieldN1_formatA, fieldNNN_formatA]
  | seImm x nn | sneImm x nn | ldImm x nn | addImm x nn | rnd x nn =>
    simp [encode, decodeWord, fieldN1_formatXNN, fieldX_formatXNN, fieldNN_formatXNN]
  | seReg x y | sneReg x y =>
    simp [encode, decodeWord, fieldN1_formatXY, fieldX_formatXY, fieldY_formatXY, fieldN_formatXY]
  | ldReg x y | orReg x y | andReg x y | xorReg x y | addReg x y | subReg x y | shr x y | subnReg x y
  | shl x y =>
    simp [encode, decodeWord, decodeClass8, fieldN1_formatXY, fieldX_formatXY, fieldY_formatXY, fieldN_formatXY]
  | drw x y n =>
    have hn : n ≤ 15 := of_decide_eq_true hi
    simp [encode, decodeWord, fieldN1_formatXY, fieldX_formatXY, fieldY_formatXY, fieldN_formatXY,
      Nat.mod_eq_of_lt (show n < 16 by omega)]
  | skp x | sknp x =>
    simp [encode, decodeWord, decodeClassE, fieldN1_formatX, fieldX_formatX, fieldSub_formatX]
  | ldVxDt x | ldVxK x | ldDtVx x | ldStVx x | addI x | ldF x | ldB x | stRegs x | ldRegs x =>
    simp [encode, decodeWord, decodeClassF, fieldN1_formatX, fieldX_formatX, fieldSub_formatX]

/-- No two well-formed instructions share an opcode. -/
theorem encode_injective_of_wellFormed {i j : Instr} (hi : i.wellFormed = true) (hj : j.wellFormed = true)
    (h : encode i = encode j) : i = j := by
  have hdec : Except.ok (ε := Reject) i = .ok j :=
    calc .ok i = decodeWord (encode i) := (decodeOfEncodeGivesTheInstruction i hi).symm
      _ = decodeWord (encode j) := by rw [h]
      _ = .ok j := decodeOfEncodeGivesTheInstruction j hj
  exact Except.ok.inj hdec

/-! ### Encoding a decoded word (R95, R97) -/

/-- A decoder's answer to `op` is right: a miss that carries `op`, or a well-formed instruction whose opcode
is `op`. -/
inductive AnswersFor (op : Word) : Except Reject Instr → Prop
  | miss : AnswersFor op (.error (.decodeMiss op))
  | instr {i : Instr} (hwf : i.wellFormed = true) (henc : encode i = op) : AnswersFor op (.ok i)

theorem decodeClass0_answersFor (op : Word) : AnswersFor op (decodeClass0 op) := by
  unfold decodeClass0
  split
  · exact .instr rfl (Eq.symm ‹_›)
  · split
    · exact .instr rfl (Eq.symm ‹_›)
    · exact .miss

theorem decodeClass8_answersFor {op : Word} (h : fieldN1 op = 8) : AnswersFor op (decodeClass8 op) := by
  unfold decodeClass8
  split
  case h_10 => exact .miss
  all_goals exact .instr rfl (formatXY_fields op h ‹_›)

theorem decodeClassE_answersFor {op : Word} (h : fieldN1 op = 0xE) : AnswersFor op (decodeClassE op) := by
  unfold decodeClassE
  split
  case h_3 => exact .miss
  all_goals exact .instr rfl (formatX_fields op h ‹_›)

theorem decodeClassF_answersFor {op : Word} (h : fieldN1 op = 0xF) : AnswersFor op (decodeClassF op) := by
  unfold decodeClassF
  split
  case h_10 => exact .miss
  all_goals exact .instr rfl (formatX_fields op h ‹_›)

/-- Classes 5 and 9: the fixed low nibble is part of the match (D7, log 10). -/
theorem ite_fieldN_answersFor {op : Word} {i : Instr} (hwf : i.wellFormed = true)
    (henc : fieldN op = 0 → encode i = op) :
    AnswersFor op (if fieldN op = 0 then .ok i else .error (.decodeMiss op)) := by
  split
  · exact .instr hwf (henc ‹_›)
  · exact .miss

/-- Alternative `h_k` of the decoder's match is class `k - 1`; `h_17` is no class. -/
theorem decodeWord_answersFor (op : Word) : AnswersFor op (decodeWord op) := by
  unfold decodeWord
  split
  case h_1 => exact decodeClass0_answersFor op
  case h_6 h | h_10 h => exact ite_fieldN_answersFor rfl (formatXY_fields op h)
  case h_9 h => exact decodeClass8_answersFor h
  case h_14 h => exact .instr (decide_eq_true (by unfold fieldN; omega)) (formatXY_fields op h rfl)
  case h_15 h => exact decodeClassE_answersFor h
  case h_16 h => exact decodeClassF_answersFor h
  case h_17 => exact .miss
  case h_2 h | h_3 h | h_11 h | h_12 h => exact .instr rfl (formatA_fields op h)
  all_goals exact .instr rfl (formatXNN_fields op ‹_›)

theorem decodeWord_cases (op : Word) :
    decodeWord op = .error (.decodeMiss op) ∨
      ∃ i, decodeWord op = .ok i ∧ i.wellFormed = true ∧ encode i = op := by
  have h := decodeWord_answersFor op
  generalize decodeWord op = r at h
  cases h with
  | miss => exact .inl rfl
  | instr hwf henc => exact .inr ⟨_, rfl, hwf, henc⟩

/-- Settles O2: the decoder's answer is right; a word it misses is no opcode, because it would decode, and
encoding is injective on well-formed instructions. -/
theorem everyWordIsOneInstructionsOpcodeOrAMiss : Obligations.EveryWordIsOneInstructionsOpcodeOrAMiss := by
  unfold Obligations.EveryWordIsOneInstructionsOpcodeOrAMiss
  intro op
  obtain hmiss | ⟨i, hok, hwf, henc⟩ := decodeWord_cases op
  · refine .inl ⟨hmiss, ?_⟩
    rintro i hi rfl
    cases hmiss.symm.trans (decodeOfEncodeGivesTheInstruction i hi)
  · exact .inr ⟨i, hok, hwf, henc, fun j hj hjop =>
      encode_injective_of_wellFormed hj hwf (hjop.trans henc.symm)⟩

/-! ### The decode-misses of each class (R95) -/

theorem fieldN1_eq_div (op : Word) : fieldN1 op = op.toNat / 0x1000 := by
  have := op.isLt
  unfold fieldN1
  omega

theorem isDecodeMiss_iff {op : Word} : isDecodeMiss op = true ↔ decodeWord op = .error (.decodeMiss op) := by
  obtain h | ⟨i, h, -, -⟩ := decodeWord_cases op <;> simp [isDecodeMiss, h]

theorem isDecodeMiss_class0 {op : Word} (h : fieldN1 op = 0) :
    isDecodeMiss op = true ↔ op ≠ 0x00E0 ∧ op ≠ 0x00EE := by
  simp only [isDecodeMiss_iff, decodeWord, h, decodeClass0]
  split
  · simp_all
  · split <;> simp_all

theorem isDecodeMiss_class5_class9 {op : Word} (h : fieldN1 op = 5 ∨ fieldN1 op = 9) :
    isDecodeMiss op = true ↔ fieldN op ∉ [0] := by
  obtain h | h := h <;> simp [isDecodeMiss_iff, decodeWord, h]

theorem isDecodeMiss_class8 {op : Word} (h : fieldN1 op = 8) :
    isDecodeMiss op = true ↔ fieldN op ∈ [8, 9, 0xA, 0xB, 0xC, 0xD, 0xF] := by
  have hlt : fieldN op < 16 := Nat.mod_lt _ (by decide)
  simp only [isDecodeMiss_iff, decodeWord, h, decodeClass8]
  interval_cases fieldN op <;> simp

theorem isDecodeMiss_classE {op : Word} (h : fieldN1 op = 0xE) :
    isDecodeMiss op = true ↔ fieldSub op ∉ [0x9E, 0xA1] := by
  simp only [isDecodeMiss_iff, decodeWord, h, decodeClassE]
  split <;> simp_all

theorem isDecodeMiss_classF {op : Word} (h : fieldN1 op = 0xF) :
    isDecodeMiss op = true ↔ fieldSub op ∉ [0x07, 0x0A, 0x15, 0x18, 0x1E, 0x29, 0x33, 0x55, 0x65] := by
  simp only [isDecodeMiss_iff, decodeWord, h, decodeClassF]
  split <;> simp_all

/-- The classes of which every opcode is an instruction. -/
theorem not_isDecodeMiss_fullClass {op : Word} (h : fieldN1 op ∈ [1, 2, 3, 4, 6, 7, 0xA, 0xB, 0xC, 0xD]) :
    ¬isDecodeMiss op = true := by
  generalize hc : fieldN1 op = c at h
  fin_cases h <;> simp [isDecodeMiss_iff, decodeWord, hc]

/-- Settles O3: class by class. -/
theorem decodeMissSpaceIsAsListed : Obligations.DecodeMissSpaceIsAsListed := by
  unfold Obligations.DecodeMissSpaceIsAsListed
  intro op
  have hlt : fieldN1 op < 16 := Nat.mod_lt _ (by decide)
  rw [← fieldN1_eq_div]
  obtain hfull | h | h | h | h | h | h :
      fieldN1 op ∈ [1, 2, 3, 4, 6, 7, 0xA, 0xB, 0xC, 0xD] ∨ fieldN1 op = 0 ∨ fieldN1 op = 5 ∨ fieldN1 op = 8 ∨
        fieldN1 op = 9 ∨ fieldN1 op = 0xE ∨ fieldN1 op = 0xF := by
    interval_cases fieldN1 op <;> simp
  · have hmiss := not_isDecodeMiss_fullClass hfull
    generalize fieldN1 op = c at hfull ⊢
    fin_cases hfull <;> simpa using hmiss
  · simp [isDecodeMiss_class0 h, h]
  · simp [isDecodeMiss_class5_class9 (.inl h), h, fieldN]
  · simp [isDecodeMiss_class8 h, h, fieldN]
  · simp [isDecodeMiss_class5_class9 (.inr h), h, fieldN]
  · simp [isDecodeMiss_classE h, h, fieldSub]
  · simp [isDecodeMiss_classF h, h, fieldSub]

/-! ### Counting the decode-misses of a class (R96) -/

theorem countP_mem_range {n : Nat} {l : List Nat} (hl : l.Nodup) (hn : ∀ a ∈ l, a < n) :
    (List.range n).countP (fun k => decide (k ∈ l)) = l.length := by
  rw [List.countP_eq_length_filter]
  refine List.Perm.length_eq ((List.perm_ext_iff_of_nodup (List.nodup_range.filter _) hl).mpr fun a => ?_)
  simpa using hn a

theorem countP_notMem_range {n : Nat} {l : List Nat} (hl : l.Nodup) (hn : ∀ a ∈ l, a < n) :
    (List.range n).countP (fun k => decide (k ∉ l)) = n - l.length := by
  have hsum := List.length_eq_countP_add_countP (fun k => decide (k ∈ l)) (l := List.range n)
  simp only [countP_mem_range hl hn, List.length_range, decide_eq_true_eq] at hsum
  omega

/-- What depends on the remainder only is counted once and multiplied. -/
theorem countP_mod_range (q : Nat → Bool) (n m : Nat) :
    (List.range (n * m)).countP (fun k => q (k % m)) = n * (List.range m).countP q := by
  induction n with
  | zero => simp
  | succ n ih =>
    have hblock : (List.range m).countP (fun k => q ((n * m + k) % m)) = (List.range m).countP q :=
      List.countP_congr fun k hk => by
        rw [Nat.mul_add_mod_self_right, Nat.mod_eq_of_lt (List.mem_range.mp hk)]
    rw [Nat.succ_mul, List.range_add, List.countP_append, List.countP_map, ih, Nat.succ_mul]
    exact congrArg _ hblock

/-- The decode-misses of a class in which the remainder of the opcode modulo `m` decides, `t` times among the
`m` remainders. -/
theorem countP_isDecodeMiss_class (c : Nat) {n m t : Nat} {q : Nat → Prop} [DecidablePred q]
    (h : ∀ op : Word, fieldN1 op = c → (isDecodeMiss op = true ↔ q (op.toNat % m)))
    (ht : (List.range m).countP (fun k => decide (q k)) = t) (hc : c < 16) (hnm : n * m = 0x1000) :
    ((List.range 0x1000).countP fun k => isDecodeMiss (BitVec.ofNat 16 (c * 0x1000 + k))) = n * t := by
  rw [← ht, ← countP_mod_range, hnm]
  refine List.countP_congr fun k hk => ?_
  have hk : k < 0x1000 := List.mem_range.mp hk
  have hval : (BitVec.ofNat 16 (c * 0x1000 + k)).toNat = c * 0x1000 + k := by
    rw [BitVec.toNat_ofNat, Nat.mod_eq_of_lt (by omega)]
  have hclass : fieldN1 (BitVec.ofNat 16 (c * 0x1000 + k)) = c := by
    rw [fieldN1_eq_div, hval]
    omega
  have hmod : (c * 0x1000 + k) % m = k % m := by
    rw [← hnm, ← Nat.mul_assoc, Nat.mul_add_mod_self_right]
  rw [h _ hclass, hval, hmod, decide_eq_true_eq]

/-- Class 0 in the form that is counted. -/
theorem isDecodeMiss_class0_iff_notMem {op : Word} (h : fieldN1 op = 0) :
    isDecodeMiss op = true ↔ op.toNat % 0x1000 ∉ [0xE0, 0xEE] := by
  have hmod : op.toNat % 0x1000 = op.toNat := by rw [fieldN1_eq_div] at h; omega
  simp [isDecodeMiss_class0 h, hmod, ← BitVec.toNat_inj]

/-- Settles O4: each class lists the remainders that are, or are not, misses. -/
theorem decodeMissCountsByClass : Obligations.DecodeMissCountsByClass := by
  unfold Obligations.DecodeMissCountsByClass
  refine ⟨?_, ?_, ?_, ?_, ?_, ?_⟩
  · have h := countP_isDecodeMiss_class 0 (n := 1) @isDecodeMiss_class0_iff_notMem
      (countP_notMem_range (by decide) (by decide)) (by decide) rfl
    simp only [Nat.zero_mul, Nat.zero_add] at h
    exact h
  · exact countP_isDecodeMiss_class 5 (n := 0x100) (fun _ h => isDecodeMiss_class5_class9 (.inl h))
      (countP_notMem_range (by decide) (by decide)) (by decide) rfl
  · exact countP_isDecodeMiss_class 8 (n := 0x100) (fun _ h => isDecodeMiss_class8 h)
      (countP_mem_range (by decide) (by decide)) (by decide) rfl
  · exact countP_isDecodeMiss_class 9 (n := 0x100) (fun _ h => isDecodeMiss_class5_class9 (.inr h))
      (countP_notMem_range (by decide) (by decide)) (by decide) rfl
  · exact countP_isDecodeMiss_class 0xE (n := 16) (fun _ h => isDecodeMiss_classE h)
      (countP_notMem_range (by decide) (by decide)) (by decide) rfl
  · exact countP_isDecodeMiss_class 0xF (n := 16) (fun _ h => isDecodeMiss_classF h)
      (countP_notMem_range (by decide) (by decide)) (by decide) rfl

/-- Settles O5: fixed words, evaluated. -/
theorem wordsOfEveryFamilyDecode : Obligations.WordsOfEveryFamilyDecode := by
  unfold Obligations.WordsOfEveryFamilyDecode
  decide

end Sys2Proof
end

section
/-! PROOFS. The statements of 40_cycle.md: what a step does in each of its cases, which errors it raises, and
which instructions read the step's inputs. -/

open Sys2Proof.Claims

namespace Sys2Proof.Machine

/-! ### The three cases of a step (R120 to R125) -/

section
variable {s : State}

theorem step_of_decode {i : Instr} (hb : inBounds s.pc.toNat 2 = true)
    (hd : decodeWord (s.mem.opcodeAt s.pc.toNat) = .ok i) : step s = exec i s.beginStep.advance := by
  have hf : fetch s.beginStep = .ok (s.mem.opcodeAt s.pc.toNat) := fetch_eq_ok.mpr ⟨hb, rfl⟩
  simp only [step, cycle, hf, hd]

theorem step_of_decodeMiss {e : Reject} (hb : inBounds s.pc.toNat 2 = true)
    (hd : decodeWord (s.mem.opcodeAt s.pc.toNat) = .error e) :
    step s = .next (s.beginStep.advance.setReport (.decodeMiss (s.mem.opcodeAt s.pc.toNat))) := by
  have hf : fetch s.beginStep = .ok (s.mem.opcodeAt s.pc.toNat) := fetch_eq_ok.mpr ⟨hb, rfl⟩
  simp only [step, cycle, hf, hd, finishDecodeMiss]

theorem step_of_fetch_outside (hb : inBounds s.pc.toNat 2 = false) :
    step s = .fault (.outOfBounds (firstOutOfBounds s.pc.toNat)) := by
  have hf : fetch s.beginStep = .error (.outOfBounds (firstOutOfBounds s.pc.toNat)) :=
    fetch_eq_error.mpr ⟨hb, rfl⟩
  simp only [step, cycle, hf, raiseError]

/-- The two places where a step can raise an error: the fetch, and the decoded instruction (R126). -/
theorem step_eq_fault {f : Fault} :
    step s = .fault f ↔
      (inBounds s.pc.toNat 2 = false ∧ .outOfBounds (firstOutOfBounds s.pc.toNat) = f) ∨
      ∃ i, inBounds s.pc.toNat 2 = true ∧ decodeWord (s.mem.opcodeAt s.pc.toNat) = .ok i ∧
        exec i s.beginStep.advance = .fault f := by
  cases hb : inBounds s.pc.toNat 2 with
  | false => simp [step_of_fetch_outside hb]
  | true =>
    cases hd : decodeWord (s.mem.opcodeAt s.pc.toNat) with
    | ok i => simp [step_of_decode hb hd]
    | error e => simp [step_of_decodeMiss hb hd]

end

/-- Settles O7: the bytes at PC are the two of the fetched opcode, and the record written out is the state after
the host's turn and the advance. -/
theorem stepRunsTheDecodedInstruction : Obligations.StepRunsTheDecodedInstruction := by
  unfold Obligations.StepRunsTheDecodedInstruction
  intro s i hpc hd
  exact step_of_decode (inBounds_two_of_le hpc) ((decodeBytes_pair _ _ i).mp hd)

/-- Settles O8: the opcode with these two bytes is the one fetched. -/
theorem decodeMissOnlyAdvancesPc : Obligations.DecodeMissOnlyAdvancesPc := by
  unfold Obligations.DecodeMissOnlyAdvancesPc
  intro s op hpc hop hmiss
  have fetched : op = s.mem.opcodeAt s.pc.toNat :=
    BitVec.eq_of_toNat_eq (hop.trans (joinBytes_toNat _ _).symm)
  subst fetched
  exact step_of_decodeMiss (inBounds_two_of_le hpc) (isDecodeMiss_iff.mp hmiss)

/-- Settles O9: of the two bytes at PC the second, if PC is 0xFFF, or else already the first lies outside. -/
theorem fetchOutsideMemoryIsOutOfBounds : Obligations.FetchOutsideMemoryIsOutOfBounds := by
  unfold Obligations.FetchOutsideMemoryIsOutOfBounds
  intro s hpc
  have lowest : firstOutOfBounds s.pc.toNat = if s.pc.toNat = 0xFFF then 0x1000 else s.pc.toNat := by
    simp only [firstOutOfBounds, memorySize]
    split <;> omega
  rw [← lowest]
  exact step_of_fetch_outside ((inBounds_eq_false_iff _ _).mpr ⟨by decide, by omega⟩)

/-! ### What an error depends on (R126, R129) -/

section
variable {s t : State} {f : Fault}

theorem execRet_eq_fault : execRet s = .fault f ↔ s.sp = 0 ∧ .stackUnderflow = f := by
  by_cases hsp : s.sp = 0
  · rw [execRet_of_sp_eq_zero hsp, raiseError_eq_fault]
    simp [hsp]
  · rw [execRet_of_sp_ne_zero fun e => hsp (Fin.ext e)]
    simp [hsp]

theorem execCall_eq_fault {nnn : Addr} : execCall nnn s = .fault f ↔ s.sp = 16 ∧ .stackOverflow = f := by
  by_cases hsp : s.sp = 16
  · rw [execCall_of_sp_eq_max nnn hsp, raiseError_eq_fault]
    simp [hsp]
  · have hlt : s.sp.val < 16 := by
      have hne : s.sp.val ≠ 16 := fun e => hsp (Fin.ext e)
      omega
    rw [execCall_of_sp_lt nnn hlt]
    simp [hsp]

/-- Whether an access leaves memory depends on its base and length alone. -/
theorem completeInBounds_fault_of_base_eq {a b len : Nat} {u w : State} (hab : b = a)
    (h : completeInBounds a len u = .fault f) : completeInBounds b len w = .fault f := by
  rw [completeInBounds_eq_fault] at h ⊢
  rwa [hab]

/-- An instruction's error depends on I and SP alone. -/
theorem exec_fault_of_index_sp_eq {i : Instr} (hi : t.i = s.i) (hsp : t.sp = s.sp)
    (h : exec i s = .fault f) : exec i t = .fault f := by
  have base : t.i.toNat = s.i.toNat := congrArg BitVec.toNat hi
  cases i with
  | ret =>
    obtain ⟨h0, hf⟩ := execRet_eq_fault.mp h
    exact execRet_eq_fault.mpr ⟨hsp.trans h0, hf⟩
  | call nnn =>
    obtain ⟨h16, hf⟩ := execCall_eq_fault.mp h
    exact execCall_eq_fault.mpr ⟨hsp.trans h16, hf⟩
  | drw _ _ _ | ldB _ | stRegs _ | ldRegs _ => exact completeInBounds_fault_of_base_eq base h
  | ldVxK x => cases h
  | _ => exact absurd h complete_ne_fault

/-- A step's error depends on PC, memory, I and SP alone. -/
theorem step_fault_of_core_eq (hpc : t.pc = s.pc) (hmem : t.mem = s.mem) (hi : t.i = s.i) (hsp : t.sp = s.sp)
    (h : step s = .fault f) : step t = .fault f := by
  rw [step_eq_fault, hpc, hmem]
  obtain hout | ⟨i, hb, hd, hexec⟩ := step_eq_fault.mp h
  · exact .inl hout
  · exact .inr ⟨i, hb, hd, exec_fault_of_index_sp_eq (s := s.beginStep.advance) hi hsp hexec⟩

end

/-- Settles O60: the two states agree on the four parts of the core an error depends on. -/
theorem anErrorRecursWhateverTheHostDoes : Obligations.AnErrorRecursWhateverTheHostDoes := by
  unfold Obligations.AnErrorRecursWhateverTheHostDoes
  intro s t f h ht
  refine step_fault_of_core_eq ?_ ?_ ?_ ?_ h <;> rw [ht]

/-! ### Which instructions read the step's inputs (R37, R124) -/

/-- A relation between next states may be weakened, with the first of them known to be what was reached. -/
theorem sameResult_imp {rel rel' : State → State → Prop} {r q : Result}
    (himp : ∀ t u, r = .next t → rel t u → rel' t u) (h : sameResult rel r q) : sameResult rel' r q := by
  cases r with
  | next t =>
    cases q with
    | next u => exact himp t u rfl h
    | fault _ | refused _ => exact h
  | fault _ | refused _ => cases q <;> exact h

/-- The same state with other inputs of the step. -/
def State.withInputs (s : State) (keys : Vector Bool 16) (rnd : Byte) : State :=
  { s with keys := keys, rnd := rnd }

section
variable {s : State} {keys : Vector Bool 16} {rnd : Byte}

theorem execRet_withInputs :
    sameResult (fun t u => u = t.withInputs keys rnd) (execRet s) (execRet (s.withInputs keys rnd)) := by
  by_cases hsp : s.sp = 0
  · rw [execRet_of_sp_eq_zero hsp, execRet_of_sp_eq_zero (s := s.withInputs keys rnd) hsp]
    rfl
  · have hne : s.sp.val ≠ 0 := fun e => hsp (Fin.ext e)
    rw [execRet_of_sp_ne_zero hne, execRet_of_sp_ne_zero (s := s.withInputs keys rnd) hne]
    rfl

theorem execCall_withInputs (nnn : Addr) :
    sameResult (fun t u => u = t.withInputs keys rnd) (execCall nnn s)
      (execCall nnn (s.withInputs keys rnd)) := by
  by_cases hsp : s.sp.val < 16
  · rw [execCall_of_sp_lt nnn hsp, execCall_of_sp_lt nnn (s := s.withInputs keys rnd) hsp]
    rfl
  · have hmax : s.sp = 16 := Fin.ext (by simp; omega)
    rw [execCall_of_sp_eq_max nnn hmax, execCall_of_sp_eq_max nnn (s := s.withInputs keys rnd) hmax]
    rfl

/-- Other inputs stand in the next state and are seen nowhere else, where each input that the instruction reads
is the same. -/
theorem exec_withInputs (i : Instr) (hr : (∀ x nn, i ≠ .rnd x nn) ∨ rnd = s.rnd)
    (hk : (∀ x, i ≠ .skp x ∧ i ≠ .sknp x ∧ i ≠ .ldVxK x) ∨ keys = s.keys) :
    sameResult (fun t u => u = t.withInputs keys rnd) (exec i s) (exec i (s.withInputs keys rnd)) := by
  cases i with
  | ret => exact execRet_withInputs
  | call nnn => exact execCall_withInputs nnn
  | drw _ _ _ | ldB _ | stRegs _ | ldRegs _ => exact sameResult_completeInBounds rfl
  | rnd x nn =>
    obtain rfl := hr.resolve_left fun h => h x nn rfl
    rfl
  | skp x | sknp x =>
    obtain rfl := hk.resolve_left fun h => by simpa using h x
    rfl
  | ldVxK x =>
    obtain rfl := hk.resolve_left fun h => by simpa using h x
    simp only [exec, execLdVxK, awaitKey, State.withInputs]
    split <;> rfl
  | _ => rfl

end

/-- Settles O58: an input that is not replaced is the same in both states, and no instruction writes it. -/
theorem onlyFourInstructionsReadTheInputs : Obligations.OnlyFourInstructionsReadTheInputs := by
  unfold Obligations.OnlyFourInstructionsReadTheInputs
  intro i s keys rnd
  refine ⟨fun hr hk => exec_withInputs i (.inl hr) (.inl hk), fun hr => ?_, fun hk => ?_⟩
  · refine sameResult_imp (fun t u ht hu => ?_) (exec_withInputs (keys := s.keys) i (.inl hr) (.inr rfl))
    rw [hu, State.withInputs, ← (exec_inputs ht).1]
  · refine sameResult_imp (fun t u ht hu => ?_) (exec_withInputs (rnd := s.rnd) i (.inr rfl) (.inl hk))
    rw [hu, State.withInputs, ← (exec_inputs ht).2.1]

end Sys2Proof.Machine
end

section
/-! PROOFS. The statements of 41_flow.md: the jumps, call and return, and the skips. -/

open Sys2Proof.Claims

namespace Sys2Proof.Machine

/-! ### The opcodes of a rule's Encoding line (R91) -/

/-- An opcode written field by field decodes to the instruction whose encoding it is. -/
theorem decodeWord_of_encode_eq {i : Instr} {op : Word} (hi : i.wellFormed = true) (h : encode i = op) :
    decodeWord op = .ok i :=
  h ▸ decodeOfEncodeGivesTheInstruction i hi

theorem opXYN_eq_formatXY (c : Nat) (x y : RegIndex) {n : Nat} (hn : n ≤ 15) :
    opXYN c x y n = formatXY c x y n := by
  rw [opXYN, formatXY, Nat.mod_eq_of_lt (show n < 16 by omega)]

/-- 5XYN and 9XYN with N other than 0 are no instruction (R146, R147). -/
theorem isDecodeMiss_opXYN_class5_class9 {c n : Nat} (hc : c = 5 ∨ c = 9) (x y : RegIndex) (hpos : 0 < n)
    (hn : n ≤ 15) : isDecodeMiss (opXYN c x y n) = true := by
  have class_eq : fieldN1 (formatXY c x y n) = c := fieldN1_formatXY (by omega) x y n
  rw [opXYN_eq_formatXY c x y hn, isDecodeMiss_class5_class9 (by rwa [class_eq]), fieldN_formatXY,
    List.mem_singleton]
  omega

/-! ### Jumps (R142, R148) -/

theorem targetOf_eq_ofNat (nnn : Addr) : targetOf nnn = BitVec.ofNat 16 nnn.toNat :=
  (BitVec.ofNat_toNat 16 nnn).symm

/-- Settles O22: the target is NNN widened to 16 bits. -/
theorem jumpSetsPc : Obligations.JumpSetsPc := by
  unfold Obligations.JumpSetsPc
  intro nnn s
  refine ⟨decodeWord_of_encode_eq rfl rfl, ?_⟩
  rw [← targetOf_eq_ofNat]
  rfl

/-- Settles O26: the largest sum, 0xFFF + 0xFF, fits in 16 bits. -/
theorem offsetJumpAddsV0 : Obligations.OffsetJumpAddsV0 := by
  unfold Obligations.OffsetJumpAddsV0
  intro nnn s
  exact ⟨decodeWord_of_encode_eq rfl rfl, _, rfl, offsetTarget_toNat nnn (s.reg 0), rfl⟩

/-! ### Skips (R140, R144 to R147) -/

/-- A skip on a test skips on the condition that the test decides. -/
theorem skips_skipIf {s : State} {b : Bool} {c : Prop} (h : b = true ↔ c) : skips s c (skipIf b s) := by
  refine ⟨fun hc => ?_, fun hc => ?_⟩
  · rw [skipIf_eq, if_pos (h.mpr hc)]
    rfl
  · rw [skipIf_eq, if_neg (mt h.mp hc)]
    rfl

/-- Settles O24: the two tests are Boolean equality of VX and NN, and its negation. -/
theorem immediateSkipsCompareVxWithNn : Obligations.ImmediateSkipsCompareVxWithNn := by
  unfold Obligations.ImmediateSkipsCompareVxWithNn
  intro x nn s
  exact ⟨decodeWord_of_encode_eq rfl rfl, decodeWord_of_encode_eq rfl rfl,
    skips_skipIf beq_iff_eq, skips_skipIf bne_iff_ne⟩

/-- Settles O25: as for the immediate skips; the low nibble 0 is part of the match. -/
theorem registerSkipsCompareVxWithVy : Obligations.RegisterSkipsCompareVxWithVy := by
  unfold Obligations.RegisterSkipsCompareVxWithVy
  intro x y s
  exact ⟨decodeWord_of_encode_eq rfl rfl, decodeWord_of_encode_eq rfl rfl,
    fun _ hpos hn => ⟨isDecodeMiss_opXYN_class5_class9 (.inl rfl) x y hpos hn,
      isDecodeMiss_opXYN_class5_class9 (.inr rfl) x y hpos hn⟩,
    skips_skipIf beq_iff_eq, skips_skipIf bne_iff_ne⟩

/-! ### Call and return (R141, R143) -/

section
variable {s t : State} {k : Fin 16}

/-- `RET` with `k + 1` entries in use goes to entry `k`, the topmost, and keeps it. -/
theorem exec_ret_of_sp_eq_succ (h : s.sp.val = k.val + 1) :
    exec .ret s = .next { s with sp := k.castSucc, pc := s.stack[k], report := .ok } := by
  have top : s.sp.val - 1 = k.val := by omega
  refine (execRet_of_sp_ne_zero (by omega)).trans (complete_eq_next.mpr ?_)
  simp only [State.setReport, State.setPc, top]
  rfl

/-- The state that `CALL` leaves when it fills stack entry `k`. -/
def State.afterCall (s : State) (k : Fin 16) (nnn : Addr) : State :=
  { s with stack := s.stack.set k s.pc, sp := k.succ, pc := targetOf nnn, report := .ok }

theorem exec_call_of_sp_eq (nnn : Addr) (h : s.sp.val = k.val) :
    exec (.call nnn) s = .next (s.afterCall k nnn) := by
  refine (execCall_of_sp_lt nnn (by omega)).trans (complete_eq_next.mpr ?_)
  simp only [State.afterCall, State.setReport, State.setPc, h]
  rfl

/-- Everything a call can do that leaves a state. -/
theorem exec_call_eq_next {nnn : Addr} :
    exec (.call nnn) s = .next t ↔ ∃ k : Fin 16, s.sp.val = k.val ∧ s.afterCall k nnn = t := by
  refine ⟨fun h => ?_, fun ⟨k, hk, ht⟩ => ht ▸ exec_call_of_sp_eq nnn hk⟩
  by_cases hsp : s.sp.val < 16
  · refine ⟨⟨s.sp.val, hsp⟩, rfl, ?_⟩
    rw [exec_call_of_sp_eq (k := ⟨s.sp.val, hsp⟩) nnn rfl] at h
    exact Host.Outcome.next.inj h
  · have hmax : s.sp = 16 := Fin.ext (by simp; omega)
    cases (execCall_eq_fault.mpr ⟨hmax, rfl⟩).symm.trans h

theorem State.afterCall_stack_self (nnn : Addr) : (s.afterCall k nnn).stack[k] = s.pc := by
  simp [State.afterCall]

theorem State.afterCall_stack_ne (nnn : Addr) {j : Fin 16} (h : j ≠ k) :
    (s.afterCall k nnn).stack[j] = s.stack[j] := by
  simp [State.afterCall, Fin.val_inj, h.symm]

end

/-- Settles O21: an empty stack has nothing to pop, and any other has a topmost entry. -/
theorem returnPopsTheStack : Obligations.ReturnPopsTheStack := by
  unfold Obligations.ReturnPopsTheStack
  exact ⟨decodeWord_of_encode_eq rfl rfl, fun _ => execRet_of_sp_eq_zero, fun _ _ => exec_ret_of_sp_eq_succ⟩

/-- Settles O23: a full stack overflows, and any other takes PC into its lowest free entry. -/
theorem callPushesTheReturnAddress : Obligations.CallPushesTheReturnAddress := by
  unfold Obligations.CallPushesTheReturnAddress
  intro nnn
  exact ⟨decodeWord_of_encode_eq rfl rfl, fun _ => execCall_of_sp_eq_max nnn, fun s k hk =>
    ⟨s.afterCall k nnn, exec_call_of_sp_eq nnn hk, rfl, targetOf_eq_ofNat nnn, State.afterCall_stack_self nnn,
      fun _ => State.afterCall_stack_ne nnn, rfl⟩⟩

/-- Settles O27: the return pops the entry that the call pushed, and the entries in use lie below it. -/
theorem returnAfterCallComesBack : Obligations.ReturnAfterCallComesBack := by
  unfold Obligations.ReturnAfterCallComesBack
  intro s t nnn h
  obtain ⟨k, hk, rfl⟩ := exec_call_eq_next.mp h
  refine ⟨_, exec_ret_of_sp_eq_succ rfl, State.afterCall_stack_self nnn, Fin.ext hk.symm, fun j hj => ?_⟩
  have below : j ≠ k := by
    rintro rfl
    omega
  exact State.afterCall_stack_ne nnn below

end Sys2Proof.Machine
end

section
/-! PROOFS. The statements of 42_alu.md: the register loads, and the ALU with its flags. -/

open Sys2Proof.Claims

namespace Sys2Proof.Machine

section
variable {s : State} {x : RegIndex}

/-! ### The two ways an ALU instruction completes (R161) -/

theorem writesReg_completeReg {b : Byte} {value : Nat} (hb : b.toNat = value) :
    writesReg s x value (completeReg s x b) := by
  refine ⟨(s.setReg x b).setReport .ok, rfl, ?_, fun k hk => ?_, rfl⟩
  · rw [State.reg_setReport, State.reg_setReg_self, hb]
  · rw [State.reg_setReport, State.reg_setReg, if_neg hk]

/-- The flag is written last: VF holds it also when VF is the destination. -/
theorem writesRegFlag_completeRegFlag {b flag : Byte} {value flagValue : Nat} (hb : b.toNat = value)
    (hf : flag.toNat = flagValue) : writesRegFlag s x value flagValue (completeRegFlag s x b flag) := by
  refine ⟨(s.setRegThenFlag x b flag).setReport .ok, rfl, ?_, fun hx => ?_, fun k hkx hk => ?_, rfl⟩
  · rw [State.reg_setReport, State.reg_setRegThenFlag, if_pos rfl, hf]
  · rw [State.reg_setReport, State.reg_setRegThenFlag, if_neg hx, if_pos rfl, hb]
  · rw [State.reg_setReport, State.reg_setRegThenFlag, if_neg hk, if_neg hkx]

/-! ### Carry and not-borrow (R160) -/

theorem carryFlag_toNat (a b : Byte) : (carryFlag a b).toNat = if a.toNat + b.toNat > 255 then 1 else 0 := by
  simp only [carryFlag, flagByte_toNat, decide_eq_true_eq, gt_iff_lt]

theorem notBorrowFlag_toNat (a b : Byte) : (notBorrowFlag a b).toNat = if a.toNat ≥ b.toNat then 1 else 0 := by
  simp only [notBorrowFlag, flagByte_toNat, decide_eq_true_eq, ge_iff_le]

/-! ### Shifts of the source that `SHIFT_SOURCE` names (R170, R172) -/

variable {y : RegIndex} {cfg : Config} {src : Byte}

theorem shrWith_writesRegFlag (h : shiftOperand cfg.shiftSource (s.reg x) (s.reg y) = src) :
    writesRegFlag s x (src.toNat / 2) (src.toNat % 2) (shrWith cfg x y s) := by
  rw [shrWith, h]
  exact writesRegFlag_completeRegFlag (shiftRightOne_toNat src) (lsbFlag_toNat src)

theorem shlWith_writesRegFlag (h : shiftOperand cfg.shiftSource (s.reg x) (s.reg y) = src) :
    writesRegFlag s x (src.toNat * 2 % 256) (src.toNat / 128) (shlWith cfg x y s) := by
  rw [shlWith, h]
  exact writesRegFlag_completeRegFlag (shiftLeftOne_toNat src) (msbFlag_toNat src)

theorem shiftOperand_of_vy (h : cfg.shiftSource = .vy) (vx vy : Byte) :
    shiftOperand cfg.shiftSource vx vy = vy := by
  rw [h, shiftOperand]

end

/-! ### Register loads (R162, R164, R173) -/

/-- Settles O28: NN is the byte written. -/
theorem loadImmediateWritesNn : Obligations.LoadImmediateWritesNn := by
  unfold Obligations.LoadImmediateWritesNn
  intro x nn s
  exact ⟨decodeWord_of_encode_eq rfl rfl, writesReg_completeReg rfl⟩

/-- Settles O30: the byte of VY is the byte written. -/
theorem copyRegisterWritesVy : Obligations.CopyRegisterWritesVy := by
  unfold Obligations.CopyRegisterWritesVy
  intro x y s
  exact ⟨decodeWord_of_encode_eq rfl rfl, writesReg_completeReg rfl⟩

/-- Settles O35: the random byte is the state's, and no value of it is excluded. -/
theorem randomIsMaskedByNn : Obligations.RandomIsMaskedByNn := by
  unfold Obligations.RandomIsMaskedByNn
  intro x nn s
  exact ⟨decodeWord_of_encode_eq rfl rfl, writesReg_completeReg (BitVec.toNat_and s.rnd nn)⟩

/-! ### Operations without a flag (R163, R165 to R167) -/

/-- Settles O29: VX is the only register written. -/
theorem addImmediateWrapsAndTouchesNoFlag : Obligations.AddImmediateWrapsAndTouchesNoFlag := by
  unfold Obligations.AddImmediateWrapsAndTouchesNoFlag
  intro x nn s
  exact ⟨decodeWord_of_encode_eq rfl rfl, writesReg_completeReg (sumByte_toNat (s.reg x) nn)⟩

/-- Settles O31: VX is the only register written, and the bitwise operations commute with `toNat`. -/
theorem logicOperationsLeaveVfAlone : Obligations.LogicOperationsLeaveVfAlone := by
  unfold Obligations.LogicOperationsLeaveVfAlone
  intro x y s
  exact ⟨decodeWord_of_encode_eq rfl rfl, decodeWord_of_encode_eq rfl rfl, decodeWord_of_encode_eq rfl rfl,
    writesReg_completeReg (BitVec.toNat_or (s.reg x) (s.reg y)),
    writesReg_completeReg (BitVec.toNat_and (s.reg x) (s.reg y)),
    writesReg_completeReg (BitVec.toNat_xor (s.reg x) (s.reg y))⟩

/-! ### Operations with a flag (R168 to R172) -/

/-- Settles O32: both values are computed from the old registers. -/
theorem addSetsCarry : Obligations.AddSetsCarry := by
  unfold Obligations.AddSetsCarry
  intro x y s
  exact ⟨decodeWord_of_encode_eq rfl rfl,
    writesRegFlag_completeRegFlag (sumByte_toNat (s.reg x) (s.reg y)) (carryFlag_toNat (s.reg x) (s.reg y))⟩

/-- Settles O33: the two instructions differ in the order of the operands. -/
theorem subtractionsSetNotBorrow : Obligations.SubtractionsSetNotBorrow := by
  unfold Obligations.SubtractionsSetNotBorrow
  intro x y s
  have difference (a b : Byte) :
      writesRegFlag s x ((a.toNat + 256 - b.toNat) % 256) (if a.toNat ≥ b.toNat then 1 else 0)
        (completeRegFlag s x (differenceByte a b) (notBorrowFlag a b)) :=
    writesRegFlag_completeRegFlag (differenceByte_toNat a b) (notBorrowFlag_toNat a b)
  exact ⟨decodeWord_of_encode_eq rfl rfl, decodeWord_of_encode_eq rfl rfl,
    difference (s.reg x) (s.reg y), difference (s.reg y) (s.reg x)⟩

/-- Settles O34: `exec` shifts VX under the chosen parameters, and any `Config` with `vy` shifts VY. -/
theorem shiftsSetTheBitShiftedOut : Obligations.ShiftsSetTheBitShiftedOut := by
  unfold Obligations.ShiftsSetTheBitShiftedOut
  intro x y s
  refine ⟨decodeWord_of_encode_eq rfl rfl, decodeWord_of_encode_eq rfl rfl,
    shrWith_writesRegFlag rfl, shlWith_writesRegFlag rfl, fun cfg hvy => ?_⟩
  have source := shiftOperand_of_vy hvy (s.reg x) (s.reg y)
  exact ⟨shrWith_writesRegFlag source, shlWith_writesRegFlag source⟩

end Sys2Proof.Machine
end

section
/-! PROOFS. The statements of 43_index_memory.md: the writes of I, the decimal digits of `FX33`, and the register
block transfers. -/

namespace Sys2Proof.Machine

/-! ### Writes of I (R180 to R182) -/

/-- A 12-bit value passes the mask unchanged. -/
theorem indexValue_params_of_lt {n : Nat} (h : n < 4096) : indexValue params n = BitVec.ofNat 16 n := by
  simp only [indexValue, params_iMask12, if_true, Nat.mod_eq_of_lt h]

/-- Settles O36: NNN has 12 bits, so the mask of I keeps it. -/
theorem loadIndexSetsI : Obligations.LoadIndexSetsI := by
  unfold Obligations.LoadIndexSetsI
  intro nnn s
  refine ⟨decodeWord_of_encode_eq rfl rfl, ?_⟩
  rw [← indexValue_params_of_lt nnn.isLt]
  rfl

theorem addIWith_of_setsVf {cfg : Config} (h : cfg.fx1eSetsVf = true) (x : RegIndex) (s : State) :
    addIWith cfg x s =
      complete ((s.setIndex cfg (s.i.toNat + (s.reg x).toNat)).setReg vf
        (indexOverflowFlag (s.i.toNat + (s.reg x).toNat))) :=
  if_pos h

theorem indexOverflowFlag_eq (sum : Nat) : indexOverflowFlag sum = if sum > 0xFFF then 1 else 0 := by
  simp only [indexOverflowFlag, flagByte, decide_eq_true_eq, gt_iff_lt]

/-- Settles O37: both variants write I through the mask, and only the one with `FX1E_SETS_VF` goes on to VF. -/
theorem addToIndexMasksTheSum : Obligations.AddToIndexMasksTheSum := by
  unfold Obligations.AddToIndexMasksTheSum
  intro x s
  refine ⟨decodeWord_of_encode_eq rfl rfl, ⟨_, rfl, indexValue_toNat params_iMask12 _, rfl⟩,
    fun cfg hvf hmask => ⟨_, addIWith_of_setsVf hvf x s, indexValue_toNat hmask _, ?_, fun k hk => ?_, rfl⟩⟩
  · rw [State.reg_setReport, State.reg_setReg_self, indexOverflowFlag_eq]
  · rw [State.reg_setReport, State.reg_setReg, if_neg hk, State.reg_setIndex]

theorem glyphAddress_lowNibble (b : Byte) : glyphAddress (lowNibble b) = 5 * (b.toNat % 16) := rfl

/-- Settles O38: the last glyph, at 75, lies below the mask. -/
theorem fontAddressIsFiveTimesTheDigit : Obligations.FontAddressIsFiveTimesTheDigit := by
  unfold Obligations.FontAddressIsFiveTimesTheDigit
  intro x s
  refine ⟨decodeWord_of_encode_eq rfl rfl, _, rfl, ?_, rfl⟩
  rw [State.setReport_i, State.setIndex_i, indexValue_toNat params_iMask12, glyphAddress_lowNibble]
  omega

/-! ### Access to a block of bytes at I (R64) -/

/-- Everything an access of at least one byte can do that leaves a state. -/
theorem completeInBounds_succ_eq_next {base len : Nat} {s t : State} :
    completeInBounds base (len + 1) s = .next t ↔ base + len ≤ 0xFFF ∧ s.setReport .ok = t := by
  rw [completeInBounds_eq_next, inBounds_iff]
  exact and_congr_left' (by omega)

/-- An access that starts in memory and leaves it meets 0x1000 first. -/
theorem completeInBounds_succ_fault {base len : Nat} {s : State} (hlen : 0xFFF < base + len) (hbase : base ≤ 0xFFF) :
    completeInBounds base (len + 1) s = .fault (.outOfBounds 0x1000) :=
  completeInBounds_eq_fault.mpr
    ⟨(inBounds_eq_false_iff _ _).mpr ⟨by omega, by omega⟩, by rw [firstOutOfBounds_of_le hbase]⟩

section
variable {s : State} {a len : Nat} {bytes : List Byte} (hm : s.mem.wf = true) (hlen : bytes.length = len + 1)
  (hfit : a + len ≤ 0xFFF)
include hm hlen hfit

theorem State.byte_storeBytes (c : Nat) :
    (s.storeBytes a bytes).byte c =
      if h : a ≤ c ∧ c < a + bytes.length then bytes[c - a]'(by omega) else s.byte c :=
  Memory.read_store bytes a c (by simp only [memorySize]; omega) hm

theorem State.byte_storeBytes_inside {k : Nat} (hk : k ≤ len) :
    (s.storeBytes a bytes).byte (a + k) = bytes[k] := by
  rw [State.byte_storeBytes hm hlen hfit, dif_pos (by omega)]
  simp only [Nat.add_sub_cancel_left]

theorem State.byte_storeBytes_outside {c : Nat} (hc : c < a ∨ a + len < c) :
    (s.storeBytes a bytes).byte c = s.byte c := by
  rw [State.byte_storeBytes hm hlen hfit, dif_neg (by omega)]

end

/-! ### The decimal digits (R183) -/

section
variable {s t : State} {x : RegIndex}

/-- The state that `FX33` leaves. -/
def State.afterBcd (s : State) (x : RegIndex) : State :=
  (s.storeBytes s.i.toNat (decimalDigits (s.reg x))).setReport .ok

theorem exec_ldB_eq_next :
    exec (.ldB x) s = .next t ↔ s.i.toNat + 2 ≤ 0xFFF ∧ s.afterBcd x = t :=
  completeInBounds_succ_eq_next

section
variable (hm : s.mem.wf = true) (hi : s.i.toNat + 2 ≤ 0xFFF)
include hm hi

theorem State.afterBcd_byte_hundreds : ((s.afterBcd x).byte s.i.toNat).toNat = (s.reg x).toNat / 100 := by
  have stored : (s.afterBcd x).byte s.i.toNat = BitVec.ofNat 8 ((s.reg x).toNat / 100) :=
    State.byte_storeBytes_inside hm rfl hi (Nat.zero_le 2)
  rw [stored, BitVec.toNat_ofNat]
  omega

theorem State.afterBcd_byte_tens :
    ((s.afterBcd x).byte (s.i.toNat + 1)).toNat = (s.reg x).toNat / 10 % 10 := by
  have stored : (s.afterBcd x).byte (s.i.toNat + 1) = BitVec.ofNat 8 ((s.reg x).toNat / 10 % 10) :=
    State.byte_storeBytes_inside hm rfl hi (Nat.le_succ 1)
  rw [stored, BitVec.toNat_ofNat]
  omega

theorem State.afterBcd_byte_units : ((s.afterBcd x).byte (s.i.toNat + 2)).toNat = (s.reg x).toNat % 10 := by
  have stored : (s.afterBcd x).byte (s.i.toNat + 2) = BitVec.ofNat 8 ((s.reg x).toNat % 10) :=
    State.byte_storeBytes_inside hm rfl hi (Nat.le_refl 2)
  rw [stored, BitVec.toNat_ofNat]
  omega

theorem State.afterBcd_byte_outside {a : Nat} (ha : a < s.i.toNat ∨ s.i.toNat + 2 < a) :
    (s.afterBcd x).byte a = s.byte a :=
  State.byte_storeBytes_outside hm rfl hi ha

end

end

/-- Settles O40: the three bytes are the decimal digits of a value below 256. -/
theorem bcdDigitsReconstructVx : Obligations.BcdDigitsReconstructVx := by
  unfold Obligations.BcdDigitsReconstructVx
  intro x s t hm h
  obtain ⟨hi, rfl⟩ := exec_ldB_eq_next.mp h
  have := (s.reg x).isLt
  rw [State.afterBcd_byte_hundreds hm hi, State.afterBcd_byte_tens hm hi, State.afterBcd_byte_units hm hi]
  omega

/-- Settles O39: three bytes from I fit in memory exactly when I + 2 does. -/
theorem bcdStoresThreeDigits : Obligations.BcdStoresThreeDigits := by
  unfold Obligations.BcdStoresThreeDigits
  intro x
  exact ⟨decodeWord_of_encode_eq rfl rfl, fun s hm hi =>
    ⟨s.afterBcd x, exec_ldB_eq_next.mpr ⟨hi, rfl⟩, State.afterBcd_byte_hundreds hm hi,
      State.afterBcd_byte_tens hm hi, State.afterBcd_byte_units hm hi,
      fun _ => State.afterBcd_byte_outside hm hi, rfl⟩,
    fun _ hlo hhi => completeInBounds_succ_fault (by omega) hhi⟩

/-! ### The register block transfers (R184, R185) -/

section
variable {s t : State} {x : RegIndex}

/-- The state that `FX55` leaves. -/
def State.afterDump (s : State) (x : RegIndex) : State :=
  ((s.storeBytes s.i.toNat (s.regsUpTo x)).setIndex params (s.i.toNat + x.val + 1)).setReport .ok

/-- The state that `FX65` leaves. -/
def State.afterFill (s : State) (x : RegIndex) : State :=
  ((s.loadRegsUpTo x s.i.toNat).setIndex params (s.i.toNat + x.val + 1)).setReport .ok

theorem exec_stRegs_eq_next :
    exec (.stRegs x) s = .next t ↔ s.i.toNat + x.val ≤ 0xFFF ∧ s.afterDump x = t :=
  completeInBounds_succ_eq_next

theorem exec_ldRegs_eq_next :
    exec (.ldRegs x) s = .next t ↔ s.i.toNat + x.val ≤ 0xFFF ∧ s.afterFill x = t :=
  completeInBounds_succ_eq_next

theorem State.afterDump_byte_inside (hm : s.mem.wf = true) (hi : s.i.toNat + x.val ≤ 0xFFF) {k : RegIndex}
    (hk : k ≤ x) : (s.afterDump x).byte (s.i.toNat + k.val) = s.reg k :=
  (State.byte_storeBytes_inside hm (s.regsUpTo_length x) hi hk).trans (s.regsUpTo_getElem x k.val _)

theorem State.afterDump_byte_outside (hm : s.mem.wf = true) (hi : s.i.toNat + x.val ≤ 0xFFF) {a : Nat}
    (ha : a < s.i.toNat ∨ s.i.toNat + x.val < a) : (s.afterDump x).byte a = s.byte a :=
  State.byte_storeBytes_outside hm (s.regsUpTo_length x) hi ha

theorem State.afterFill_reg_le {k : RegIndex} (hk : k ≤ x) :
    (s.afterFill x).reg k = s.byte (s.i.toNat + k.val) :=
  (State.reg_loadRegsUpTo s x k s.i.toNat).trans (if_pos hk)

theorem State.afterFill_reg_gt {k : RegIndex} (hk : x < k) : (s.afterFill x).reg k = s.reg k :=
  (State.reg_loadRegsUpTo s x k s.i.toNat).trans (if_neg (not_le.mpr hk))

end

/-- Settles O41: the bytes stored are the registers in order, and I goes through the mask. -/
theorem registerDumpStoresV0ToVx : Obligations.RegisterDumpStoresV0ToVx := by
  unfold Obligations.RegisterDumpStoresV0ToVx
  intro x
  exact ⟨decodeWord_of_encode_eq rfl rfl, fun s hm hi =>
    ⟨s.afterDump x, exec_stRegs_eq_next.mpr ⟨hi, rfl⟩, fun _ => State.afterDump_byte_inside hm hi,
      fun _ => State.afterDump_byte_outside hm hi, indexValue_toNat params_iMask12 _, rfl⟩,
    fun _ => completeInBounds_succ_fault⟩

/-- Settles O42: the registers up to VX come from memory, and I goes through the mask. -/
theorem registerLoadReadsV0ToVx : Obligations.RegisterLoadReadsV0ToVx := by
  unfold Obligations.RegisterLoadReadsV0ToVx
  intro x
  exact ⟨decodeWord_of_encode_eq rfl rfl, fun s hi =>
    ⟨s.afterFill x, exec_ldRegs_eq_next.mpr ⟨hi, rfl⟩, fun _ => State.afterFill_reg_le,
      fun _ => State.afterFill_reg_gt, indexValue_toNat params_iMask12 _, rfl⟩,
    fun _ => completeInBounds_succ_fault⟩

/-- Settles O43: the load starts where the dump did, so it reads back the bytes that the dump stored. -/
theorem loadAfterDumpRestoresTheRegisters : Obligations.LoadAfterDumpRestoresTheRegisters := by
  unfold Obligations.LoadAfterDumpRestoresTheRegisters
  intro x s t w hm h
  obtain ⟨hi, rfl⟩ := exec_stRegs_eq_next.mp h
  exact ⟨_, exec_ldRegs_eq_next.mpr ⟨hi, rfl⟩, rfl,
    fun _ hk => (State.afterFill_reg_le hk).trans (State.afterDump_byte_inside hm hi hk),
    fun _ => State.afterFill_reg_gt⟩

end Sys2Proof.Machine
end

section
/-! PROOFS. The statements of 44_display.md: the clear display, where a sprite pixel goes, and the sprite draw. A
draw is seen as flipping a list of cells; no cell stands in the list twice, so each is flipped once. -/

open Sys2Proof.Claims

namespace Sys2Proof.Machine

/-! ### Clear display (R202) -/

/-- Settles O44: the display written is the clear one. -/
theorem clearDisplayClearsEveryCell : Obligations.ClearDisplayClearsEveryCell := by
  unfold Obligations.ClearDisplayClearsEveryCell
  exact ⟨decodeWord_of_encode_eq rfl rfl, fun s =>
    ⟨(s.setDisplay Display.clear).setReport .ok, rfl, Display.get_clear, rfl⟩⟩

/-! ### Pixel placement (R200) -/

theorem place_eq_some_iff {edge : DrawEdge} {x0 y0 c r : Nat} {p : Cell} :
    place edge x0 y0 c r = some p ↔ reaches edge x0 y0 c r p := by
  cases edge <;> exact cellAt_eq_some

/-- Settles O45: a pixel is on no cell when it is on none of them. -/
theorem pixelPlacementFollowsDrawEdge : Obligations.PixelPlacementFollowsDrawEdge := by
  unfold Obligations.PixelPlacementFollowsDrawEdge
  intro edge x0 y0 c r
  refine ⟨fun p => place_eq_some_iff, ?_⟩
  simp only [Option.eq_none_iff_forall_ne_some, ne_eq, place_eq_some_iff]

/-- Settles O46: under each edge rule two pixels on one cell have equal columns modulo 64 and equal rows modulo 32,
and a sprite is 8 columns wide and at most 15 rows high. -/
theorem pixelsOfASpriteNeverMeet : Obligations.PixelsOfASpriteNeverMeet := by
  unfold Obligations.PixelsOfASpriteNeverMeet
  intro edge x0 y0 c r c' r' p hc hc' hr hr' h h'
  rw [place_eq_some_iff] at h h'
  cases edge <;> (simp only [reaches] at h h'; omega)

/-! ### Flipping a list of cells (R203) -/

/-- Flipping cells that are all different inverts each of them and no other. -/
theorem foldl_flip_display_get (p : Cell) : ∀ {cells : List Cell} (k : Canvas), cells.Nodup →
    (cells.foldl Canvas.flip k).display.get p = if p ∈ cells then !k.display.get p else k.display.get p
  | [], _, _ => rfl
  | q :: cells, k, h => by
    obtain ⟨hq, hcells⟩ := List.nodup_cons.mp h
    rw [List.foldl_cons, foldl_flip_display_get p (k.flip q) hcells, Canvas.flip_display, Display.get_set]
    by_cases hp : p = q
    · subst hp
      simp [hq]
    · simp [hp]

/-- Flipping cells that are all different collides when one of them was set beforehand. -/
theorem foldl_flip_collide : ∀ {cells : List Cell} (k : Canvas), cells.Nodup →
    ((cells.foldl Canvas.flip k).collide = true ↔
      k.collide = true ∨ ∃ p, p ∈ cells ∧ k.display.get p = true)
  | [], k, _ => by simp
  | q :: cells, k, h => by
    obtain ⟨hq, hcells⟩ := List.nodup_cons.mp h
    have unchanged (p : Cell) (hp : p ∈ cells) : (k.flip q).display.get p = k.display.get p := by
      rw [Canvas.flip_display, Display.get_set, if_neg (ne_of_mem_of_not_mem hp hq)]
    have later : (∃ p, p ∈ cells ∧ (k.flip q).display.get p = true) ↔
        ∃ p, p ∈ cells ∧ k.display.get p = true :=
      exists_congr fun p => and_congr_right fun hp => by rw [unchanged p hp]
    rw [List.foldl_cons, foldl_flip_collide (k.flip q) hcells, later, Canvas.flip_collide, Bool.or_eq_true,
      or_assoc]
    simp only [List.mem_cons, or_and_right, exists_or, exists_eq_left]

/-! ### The cells that a sprite flips (R200, R201, R203) -/

/-- The cell that one sprite pixel flips, if any. -/
def pixelCell (edge : DrawEdge) (x0 y0 r : Nat) (row : Byte) (c : Nat) : Option Cell :=
  if spriteBit row c then place edge x0 y0 c r else none

/-- The cells that one sprite row flips, in the order of `drawRow`. -/
def rowCells (edge : DrawEdge) (x0 y0 r : Nat) (row : Byte) : List Cell :=
  (List.range 8).filterMap (pixelCell edge x0 y0 r row)

/-- The cells that the sprite rows from row `r` on flip, in the order of `drawRows`. -/
def spriteCells (edge : DrawEdge) (x0 y0 r : Nat) (rows : List Byte) : List Cell :=
  match rows with
  | [] => []
  | row :: rest => rowCells edge x0 y0 r row ++ spriteCells edge x0 y0 (r + 1) rest

section
variable {edge : DrawEdge} {x0 y0 : Nat}

theorem pixelCell_eq_some {r c : Nat} {row : Byte} {p : Cell} :
    pixelCell edge x0 y0 r row c = some p ↔ spriteBit row c = true ∧ place edge x0 y0 c r = some p := by
  simp [pixelCell]

theorem drawPixel_eq (r : Nat) (row : Byte) (k : Canvas) (c : Nat) :
    drawPixel edge x0 y0 r row k c = (pixelCell edge x0 y0 r row c).elim k k.flip := by
  unfold drawPixel pixelCell
  split
  · cases place edge x0 y0 c r <;> rfl
  · rfl

theorem drawRow_eq_foldl_flip (r : Nat) (row : Byte) (k : Canvas) :
    drawRow edge x0 y0 r row k = (rowCells edge x0 y0 r row).foldl Canvas.flip k := by
  rw [drawRow, rowCells, List.foldl_filterMap]
  congr
  funext k c
  rw [drawPixel_eq]
  cases pixelCell edge x0 y0 r row c <;> rfl

theorem drawRows_eq_foldl_flip : ∀ (rows : List Byte) (r : Nat) (k : Canvas),
    drawRows edge x0 y0 r rows k = (spriteCells edge x0 y0 r rows).foldl Canvas.flip k
  | [], _, _ => rfl
  | row :: rest, r, k => by
    rw [drawRows_cons, drawRows_eq_foldl_flip rest, drawRow_eq_foldl_flip, spriteCells, List.foldl_append]

theorem mem_rowCells {r : Nat} {row : Byte} {p : Cell} :
    p ∈ rowCells edge x0 y0 r row ↔ ∃ c < 8, spriteBit row c = true ∧ place edge x0 y0 c r = some p := by
  simp only [rowCells, List.mem_filterMap, List.mem_range, pixelCell_eq_some]

theorem mem_spriteCells {p : Cell} : ∀ {rows : List Byte} {r : Nat},
    p ∈ spriteCells edge x0 y0 r rows ↔
      ∃ j, ∃ h : j < rows.length, ∃ c < 8, spriteBit rows[j] c = true ∧ place edge x0 y0 c (r + j) = some p
  | [], r => by simp [spriteCells]
  | row :: rest, r => by
    rw [spriteCells, List.mem_append, mem_rowCells, mem_spriteCells]
    constructor
    · rintro (h | ⟨j, hj, h⟩)
      · exact ⟨0, Nat.succ_pos _, h⟩
      · exact ⟨j + 1, Nat.succ_lt_succ hj, by rwa [Nat.add_right_comm, Nat.add_assoc] at h⟩
    · rintro ⟨_ | j, hj, h⟩
      · exact .inl h
      · exact .inr ⟨j, Nat.lt_of_succ_lt_succ hj, by rwa [Nat.add_right_comm, Nat.add_assoc]⟩

theorem nodup_rowCells {r : Nat} (hr : r < 15) (row : Byte) : (rowCells edge x0 y0 r row).Nodup := by
  refine List.pairwise_filterMap.mpr (List.nodup_range.imp_of_mem fun {c c'} hc hc' hne p hp p' hp' => ?_)
  rintro rfl
  exact hne (pixelsOfASpriteNeverMeet edge x0 y0 c r c' r p (List.mem_range.mp hc) (List.mem_range.mp hc') hr hr
    (pixelCell_eq_some.mp hp).2 (pixelCell_eq_some.mp hp').2).1

theorem nodup_spriteCells : ∀ {rows : List Byte} {r : Nat}, r + rows.length ≤ 15 →
    (spriteCells edge x0 y0 r rows).Nodup
  | [], _, _ => List.nodup_nil
  | row :: rest, r, h => by
    rw [List.length_cons] at h
    refine List.nodup_append'.mpr ⟨nodup_rowCells (by omega) row, nodup_spriteCells (by omega), fun p hp hp' => ?_⟩
    obtain ⟨c, hc, -, hplace⟩ := mem_rowCells.mp hp
    obtain ⟨j, hj, c', hc', -, hplace'⟩ := mem_spriteCells.mp hp'
    have sameRow : r = r + 1 + j :=
      (pixelsOfASpriteNeverMeet edge x0 y0 c r c' (r + 1 + j) p hc hc' (by omega) (by omega) hplace hplace').2
    omega

end

/-! ### The sprite draw (R203) -/

section
variable {edge : DrawEdge} {cfg : Config} {s t : State} {x y : RegIndex} {n : Nat} {p : Cell}

/-- The cells that `DXYN` flips. -/
def State.drawnCells (s : State) (edge : DrawEdge) (x y : RegIndex) (n : Nat) : List Cell :=
  spriteCells edge (s.reg x).toNat (s.reg y).toNat 0 (s.mem.load s.i.toNat n)

theorem State.mem_drawnCells : p ∈ s.drawnCells edge x y n ↔ spriteSets edge s x y n p := by
  simp only [State.drawnCells, mem_spriteCells, Memory.load_length, Memory.load_getElem, Nat.zero_add,
    place_eq_some_iff, spriteSets, spriteBit, State.byte, exists_and_left, exists_prop]

theorem State.nodup_drawnCells (hn : n ≤ 15) : (s.drawnCells edge x y n).Nodup :=
  nodup_spriteCells (by rwa [Nat.zero_add, Memory.load_length])

theorem drawnCanvas_eq_foldl_flip :
    drawnCanvas cfg x y n s =
      (s.drawnCells cfg.drawEdge x y n).foldl Canvas.flip { display := s.display, collide := false } :=
  drawRows_eq_foldl_flip ..

/-- The state that `DXYN` leaves. -/
def State.afterDraw (s : State) (cfg : Config) (x y : RegIndex) (n : Nat) : State :=
  ((s.setDisplay (drawnCanvas cfg x y n s).display).setReg vf
    (collisionFlag (drawnCanvas cfg x y n s).collide)).setReport .ok

theorem drwWith_eq_next :
    drwWith cfg x y n s = .next t ↔ (n = 0 ∨ s.i.toNat + n ≤ 4096) ∧ s.afterDraw cfg x y n = t := by
  rw [drwWith, completeInBounds_eq_next, inBounds_iff, State.afterDraw]

theorem State.afterDraw_get (hn : n ≤ 15) (p : Cell) :
    (s.afterDraw cfg x y n).display.get p =
      if p ∈ s.drawnCells cfg.drawEdge x y n then !s.display.get p else s.display.get p := by
  rw [State.afterDraw, State.setReport_display, State.setReg_display, State.setDisplay_display,
    drawnCanvas_eq_foldl_flip, foldl_flip_display_get _ _ (State.nodup_drawnCells hn)]

theorem State.afterDraw_get_placed (hn : n ≤ 15) (hp : spriteSets cfg.drawEdge s x y n p) :
    (s.afterDraw cfg x y n).display.get p = !s.display.get p :=
  (State.afterDraw_get hn p).trans (if_pos (State.mem_drawnCells.mpr hp))

theorem State.afterDraw_get_unplaced (hn : n ≤ 15) (hp : ¬spriteSets cfg.drawEdge s x y n p) :
    (s.afterDraw cfg x y n).display.get p = s.display.get p :=
  (State.afterDraw_get hn p).trans (if_neg (mt State.mem_drawnCells.mp hp))

theorem drawnCanvas_collide (hn : n ≤ 15) :
    (drawnCanvas cfg x y n s).collide = true ↔
      ∃ p, spriteSets cfg.drawEdge s x y n p ∧ s.display.get p = true := by
  simp only [drawnCanvas_eq_foldl_flip, foldl_flip_collide _ (State.nodup_drawnCells hn), Bool.false_eq_true,
    false_or, State.mem_drawnCells]

theorem State.afterDraw_reg_vf :
    (s.afterDraw cfg x y n).reg 15 = if (drawnCanvas cfg x y n s).collide then 1 else 0 :=
  State.reg_setReg_self _ _ _

theorem State.afterDraw_reg_vf_eq_one (hn : n ≤ 15) :
    (s.afterDraw cfg x y n).reg 15 = 1 ↔
      ∃ p, spriteSets cfg.drawEdge s x y n p ∧ s.display.get p = true := by
  rw [State.afterDraw_reg_vf, ← drawnCanvas_collide hn]
  cases (drawnCanvas cfg x y n s).collide <;> decide

theorem State.afterDraw_reg_vf_eq_zero (hn : n ≤ 15)
    (h : ¬∃ p, spriteSets cfg.drawEdge s x y n p ∧ s.display.get p = true) :
    (s.afterDraw cfg x y n).reg 15 = 0 := by
  rw [State.afterDraw_reg_vf, if_neg (mt (drawnCanvas_collide hn).mp h)]

theorem State.afterDraw_reg_ne {k : RegIndex} (hk : k ≠ 15) : (s.afterDraw cfg x y n).reg k = s.reg k := by
  rw [State.afterDraw, State.reg_setReport, State.reg_setReg, if_neg hk, State.reg_setDisplay]

theorem draws_drwWith (hn : n ≤ 15) (hfit : n = 0 ∨ s.i.toNat + n ≤ 4096) :
    draws cfg.drawEdge s x y n (drwWith cfg x y n s) :=
  ⟨s.afterDraw cfg x y n, drwWith_eq_next.mpr ⟨hfit, rfl⟩, fun _ => State.afterDraw_get_placed hn,
    fun _ => State.afterDraw_get_unplaced hn, (State.afterDraw_reg_vf_eq_one hn).mpr,
    State.afterDraw_reg_vf_eq_zero hn, fun _ => State.afterDraw_reg_ne, rfl⟩

/-- A draw leaves alone what its sprite is read from, unless VF gives a coordinate. -/
theorem State.afterDraw_spriteSets (hx : x ≠ 15) (hy : y ≠ 15) :
    spriteSets edge (s.afterDraw cfg x y n) x y n p ↔ spriteSets edge s x y n p := by
  rw [spriteSets, State.afterDraw_reg_ne hx, State.afterDraw_reg_ne hy]
  exact Iff.rfl

end

/-- Settles O47: the draw with clipping is the one under the chosen parameters; the rows lie in memory when the
last one does. -/
theorem drawXorsTheSpriteAndReportsCollision : Obligations.DrawXorsTheSpriteAndReportsCollision := by
  unfold Obligations.DrawXorsTheSpriteAndReportsCollision
  intro x y n hn
  refine ⟨decodeWord_of_encode_eq (decide_eq_true hn) (opXYN_eq_formatXY 0xD x y hn).symm, fun s hfit => ?_,
    fun s hpos hout hi => ?_⟩
  · have drawn (cfg : Config) : draws cfg.drawEdge s x y n (drwWith cfg x y n s) := draws_drwWith hn (by omega)
    exact ⟨drawn params, drawn⟩
  · obtain ⟨m, rfl⟩ := Nat.exists_eq_add_one.mpr hpos
    exact completeInBounds_succ_fault (by omega) hi

/-- Settles O48: the second draw flips the same cells, and meets each of them inverted. -/
theorem drawingTwiceRestoresTheDisplay : Obligations.DrawingTwiceRestoresTheDisplay := by
  unfold Obligations.DrawingTwiceRestoresTheDisplay
  intro cfg x y n s t hn hx hy h
  obtain ⟨hfit, rfl⟩ := drwWith_eq_next.mp h
  have sameCells (p : Cell) :
      spriteSets cfg.drawEdge (s.afterDraw cfg x y n) x y n p ↔ spriteSets cfg.drawEdge s x y n p :=
    State.afterDraw_spriteSets hx hy
  refine ⟨(s.afterDraw cfg x y n).afterDraw cfg x y n, drwWith_eq_next.mpr ⟨hfit, rfl⟩,
    Display.ext_get fun p => ?_, ?_⟩
  · by_cases hp : spriteSets cfg.drawEdge s x y n p
    · rw [State.afterDraw_get_placed hn ((sameCells p).mpr hp), State.afterDraw_get_placed hn hp, Bool.not_not]
    · rw [State.afterDraw_get_unplaced hn (mt (sameCells p).mp hp), State.afterDraw_get_unplaced hn hp]
  · rw [State.afterDraw_reg_vf_eq_one hn]
    refine exists_congr fun p => ?_
    rw [sameCells p]
    exact and_congr_right fun hp => by rw [State.afterDraw_get_placed hn hp, Bool.not_eq_true']

end Sys2Proof.Machine
end

section
/-! PROOFS. The statements of 45_keypad_timers.md: the key skips, the wait for a key, and the timer accesses. -/

open Sys2Proof.Claims

namespace Sys2Proof.Machine

/-! ### Wait for key (R224) -/

/-- With a key pressed, `FX0A` completes like a register load of the lowest one. -/
theorem exec_ldVxK_of_lowest_pressed {s : State} {k : Fin 16} (x : RegIndex) (hk : s.keys[k] = true)
    (hlow : ∀ j : Fin 16, j < k → s.keys[j] = false) :
    exec (.ldVxK x) s = completeReg s x (keyByte k) := by
  simp only [exec, execLdVxK, awaitKey, anyPressed_eq_some.mpr ⟨hk, hlow⟩]
  rfl

/-- With no key pressed, `FX0A` undoes the PC advance (D17, log 20). -/
theorem exec_ldVxK_of_none_pressed {s : State} (x : RegIndex) (h : ∀ k : Fin 16, s.keys[k] = false) :
    exec (.ldVxK x) s = .next { s with pc := s.pc - 2, report := .awaitingKey } := by
  simp only [exec, execLdVxK, awaitKey, anyPressed_eq_none.mpr h]
  rfl

theorem keyByte_toNat (k : Fin 16) : (keyByte k).toNat = k.val := by
  rw [keyByte, BitVec.toNat_ofNat]
  omega

/-- Settles O51: the instruction sees the keys of the host's turn, and its rewind meets the advance. -/
theorem waitingForAKeyChangesNothing : Obligations.WaitingForAKeyChangesNothing := by
  unfold Obligations.WaitingForAKeyChangesNothing
  intro s x hpc hd hkeys
  have rewound : s.beginStep.advance.pc - 2 = s.beginStep.pc := by
    rw [State.advance_pc, BitVec.add_sub_cancel]
  calc step s
      = exec (.ldVxK x) s.beginStep.advance := stepRunsTheDecodedInstruction s (.ldVxK x) hpc hd
    _ = .next { s.beginStep.advance with pc := s.beginStep.advance.pc - 2, report := .awaitingKey } :=
        exec_ldVxK_of_none_pressed x hkeys
    _ = .next { s.beginStep with report := .awaitingKey } := by
        rw [rewound]
        rfl

/-- Settles O50: the lowest pressed key, if there is one, decides. -/
theorem waitForKeyTakesTheLowestOrWaits : Obligations.WaitForKeyTakesTheLowestOrWaits := by
  unfold Obligations.WaitForKeyTakesTheLowestOrWaits
  intro x
  refine ⟨decodeWord_of_encode_eq rfl rfl, fun s k hk hlow => ?_, fun s => exec_ldVxK_of_none_pressed x⟩
  rw [exec_ldVxK_of_lowest_pressed x hk hlow]
  exact writesReg_completeReg (keyByte_toNat k)

/-! ### Key skips (R220 to R222) -/

theorem isKeyPressed_lowNibble {keys : Vector Bool 16} {b : Byte} {k : Fin 16} (h : b.toNat % 16 = k.val) :
    isKeyPressed keys (lowNibble b) = keys[k] := by
  have index : lowNibble b = k := Fin.ext h
  rw [index, isKeyPressed]

/-- Settles O49: the two tests are the state of the key of VX's low nibble, and its negation. -/
theorem keySkipsTestTheKeyOfVx : Obligations.KeySkipsTestTheKeyOfVx := by
  unfold Obligations.KeySkipsTestTheKeyOfVx
  intro x s k hk
  have tested : isKeyPressed s.keys (lowNibble (s.reg x)) = s.keys[k] := isKeyPressed_lowNibble hk
  exact ⟨decodeWord_of_encode_eq rfl rfl, decodeWord_of_encode_eq rfl rfl,
    skips_skipIf (by rw [tested]), skips_skipIf (by rw [tested, Bool.not_eq_true'])⟩

/-! ### Timer accesses (R223, R225, R226) -/

/-- Settles O52: the byte of DT is the byte written. -/
theorem readDelayTimerCopiesDt : Obligations.ReadDelayTimerCopiesDt := by
  unfold Obligations.ReadDelayTimerCopiesDt
  intro x s
  exact ⟨decodeWord_of_encode_eq rfl rfl, writesReg_completeReg rfl⟩

/-- Settles O53: each write completes with its one timer set to VX. -/
theorem timerWritesCopyVx : Obligations.TimerWritesCopyVx := by
  unfold Obligations.TimerWritesCopyVx
  intro x s
  exact ⟨decodeWord_of_encode_eq rfl rfl, decodeWord_of_encode_eq rfl rfl,
    complete_eq_next.mpr rfl, complete_eq_next.mpr rfl⟩

end Sys2Proof.Machine
end

section
/-! PROOFS. The statements of 60_exceptions.md: the errors of instructions, and that nothing is refused. -/

namespace Sys2Proof.Machine

/-! ### How an instruction can end (R300) -/

/-- The four forms that access memory from I on, with the number of bytes each accesses (20_memory.md R64). -/
def accessesAtIndex (i : Instr) (len : Nat) : Prop :=
  (∃ x, i = .ldB x ∧ len = 3) ∨ (∃ x : RegIndex, i = .stRegs x ∧ len = x.val + 1) ∨
    (∃ x : RegIndex, i = .ldRegs x ∧ len = x.val + 1) ∨ ∃ x y, i = .drw x y len

section
variable {i : Instr} {s : State} {len : Nat}

theorem exec_of_accessesAtIndex (h : accessesAtIndex i len) :
    ∃ t, exec i s = completeInBounds s.i.toNat len t := by
  obtain ⟨x, rfl, rfl⟩ | ⟨x, rfl, rfl⟩ | ⟨x, rfl, rfl⟩ | ⟨x, y, rfl⟩ := h
  · exact ⟨_, rfl⟩
  · exact ⟨_, rfl⟩
  · exact ⟨_, rfl⟩
  · exact ⟨_, rfl⟩

/-- An instruction uses the call stack, or accesses memory from I on, or leaves a next state. -/
theorem exec_forms (i : Instr) (s : State) :
    i = .ret ∨ (∃ nnn, i = .call nnn) ∨ (∃ len, accessesAtIndex i len) ∨ ∃ t, exec i s = .next t := by
  cases i with
  | ret => exact .inl rfl
  | call nnn => exact .inr (.inl ⟨nnn, rfl⟩)
  | ldB x => exact .inr (.inr (.inl ⟨3, .inl ⟨x, rfl, rfl⟩⟩))
  | stRegs x => exact .inr (.inr (.inl ⟨x.val + 1, .inr (.inl ⟨x, rfl, rfl⟩)⟩))
  | ldRegs x => exact .inr (.inr (.inl ⟨x.val + 1, .inr (.inr (.inl ⟨x, rfl, rfl⟩))⟩))
  | drw x y n => exact .inr (.inr (.inl ⟨n, .inr (.inr (.inr ⟨x, y, rfl⟩))⟩))
  | _ => exact .inr (.inr (.inr ⟨_, rfl⟩))

/-! ### Errors of instructions (R300, R302) -/

theorem exec_eq_fault_of_accessesAtIndex {f : Fault} (h : accessesAtIndex i len) :
    exec i s = .fault f ↔
      0 < len ∧ 0xFFF < s.i.toNat + len - 1 ∧ f = .outOfBounds (max s.i.toNat 0x1000) := by
  obtain ⟨t, ht⟩ := exec_of_accessesAtIndex (s := s) h
  rw [ht, completeInBounds_fault_iff]
  exact and_congr (by omega) (and_congr_left' (by omega))

end

/-- Settles O54: an instruction that raises an error uses the call stack or accesses memory from I on, and for
each of these it is known when it does. -/
theorem instructionsRaiseExactlyTheListedErrors : Obligations.InstructionsRaiseExactlyTheListedErrors := by
  unfold Obligations.InstructionsRaiseExactlyTheListedErrors
  intro i s f
  constructor
  · intro h
    obtain rfl | ⟨nnn, rfl⟩ | ⟨len, hacc⟩ | ⟨t, ht⟩ := exec_forms i s
    · obtain ⟨hsp, rfl⟩ := execRet_eq_fault.mp h
      exact .inl ⟨rfl, hsp, rfl⟩
    · obtain ⟨hsp, rfl⟩ := execCall_eq_fault.mp h
      exact .inr (.inl ⟨⟨nnn, rfl⟩, hsp, rfl⟩)
    · obtain ⟨hlen, hout, hf⟩ := (exec_eq_fault_of_accessesAtIndex hacc).mp h
      exact .inr (.inr ⟨len, hlen, hout, hacc, hf⟩)
    · rw [ht] at h
      cases h
  · rintro (⟨rfl, hsp, rfl⟩ | ⟨⟨nnn, rfl⟩, hsp, rfl⟩ | ⟨len, hlen, hout, hacc, hf⟩)
    · exact execRet_eq_fault.mpr ⟨hsp, rfl⟩
    · exact execCall_eq_fault.mpr ⟨hsp, rfl⟩
    · exact (exec_eq_fault_of_accessesAtIndex hacc).mpr ⟨hlen, hout, hf⟩

/-! ### No refusal (R300, 30_encoding.md R97) -/

section
variable {s : State} {r : Refusal}

theorem execRet_ne_refused : execRet s ≠ .refused r := by
  unfold execRet
  split
  · exact complete_ne_refused
  · exact raiseError_ne_refused

theorem execCall_ne_refused {nnn : Addr} : execCall nnn s ≠ .refused r := by
  unfold execCall
  split
  · exact complete_ne_refused
  · exact raiseError_ne_refused

theorem exec_ne_refused (i : Instr) : exec i s ≠ .refused r := by
  obtain rfl | ⟨nnn, rfl⟩ | ⟨len, hacc⟩ | ⟨t, ht⟩ := exec_forms i s
  · exact execRet_ne_refused
  · exact execCall_ne_refused
  · obtain ⟨t, ht⟩ := exec_of_accessesAtIndex (s := s) hacc
    rw [ht]
    exact completeInBounds_ne_refused
  · simp [ht]

/-- A fetch raises an error or gives an opcode, and an opcode is an instruction's or a decode-miss. -/
theorem step_ne_refused : step s ≠ .refused r := by
  cases hb : inBounds s.pc.toNat 2 with
  | false => simp [step_of_fetch_outside hb]
  | true =>
    cases hd : decodeWord (s.mem.opcodeAt s.pc.toNat) with
    | ok i => simpa only [step_of_decode hb hd] using exec_ne_refused i
    | error e => simp [step_of_decodeMiss hb hd]

end

/-- Settles O55: no form of instruction ends in a refusal, and a step ends as its fetch, its instruction or its
decode-miss does. -/
theorem nothingIsRefused : Obligations.NothingIsRefused := by
  unfold Obligations.NothingIsRefused
  exact ⟨fun i _ _ => exec_ne_refused i, fun _ _ => step_ne_refused⟩

end Sys2Proof.Machine
end

section
/-! PROOFS. The statements of 70_reset_and_hazards.md: the load of a ROM that is too long, and of the longest that
fits. -/

namespace Sys2Proof.Machine

/-! ### The length of a ROM (R341, R342) -/

section
variable {rom : List Byte}

/-- The one error of a reload (R342). -/
theorem State.restart_eq_fault {s : State} {f : Fault} :
    s.restart rom = .fault f ↔ maxRomLength < rom.length ∧ .loadTooLarge rom.length = f := by
  unfold State.restart
  split
  case isTrue h => simp [h]
  case isFalse h => simp [Nat.lt_of_not_le h]

theorem load_of_length_gt (h : maxRomLength < rom.length) : load rom = .fault (.loadTooLarge rom.length) :=
  State.restart_eq_fault.mpr ⟨h, rfl⟩

/-- Memory from the entry point on after a load, read by address (R341). -/
theorem byte_storeBytes_reset_eq_getElem? (h : rom.length ≤ maxRomLength) {a : Nat} (hlo : entryPoint ≤ a)
    (hhi : a < entryPoint + rom.length) :
    some ((State.reset.storeBytes entryPoint rom).byte a) = rom[a - entryPoint]? := by
  have hj : a - entryPoint < rom.length := by omega
  simpa only [Nat.add_sub_cancel' hlo] using byte_storeBytes_reset_inside h hj

end

/-- Settles O15: a longer ROM is the load's one error, and a ROM of 3584 bytes ends where memory does. -/
theorem oversizeRomIsRefusedAtLoad : Obligations.OversizeRomIsRefusedAtLoad := by
  unfold Obligations.OversizeRomIsRefusedAtLoad
  refine ⟨fun rom => load_of_length_gt, fun rom hlen => ?_⟩
  have hfit : rom.length ≤ maxRomLength := hlen.le
  refine ⟨State.reset.storeBytes entryPoint rom, load_of_length_le hfit, fun a hlo hhi => ?_⟩
  have hend : a < entryPoint + rom.length := by
    rw [hlen, entryPoint]
    omega
  exact byte_storeBytes_reset_eq_getElem? hfit hlo hend

end Sys2Proof.Machine
end
